-- ==== Sys2Proof/Word.lean ====
section
/-! DEFINITION. The two word sizes the block's registers and ports use. -/

namespace Sys2Proof

/-- A byte on the two-wire bus, and the width of `CFG_TMP` (R13), of a pointer (R15) and of a status (R38). -/
abbrev Byte := BitVec 8

/-- A 16-bit word: a command (R39), STATUS (R9), RESULT (R10), the temperature word (R13, R23). -/
abbrev Word := BitVec 16

end Sys2Proof
end

