-- ==== Sys2Proof/Config.lean ====
section
/-! DEFINITION. The implementation parameters of 00_scope.md R5. A parameter with a value there has that value here;
the one marked OPEN, `P_CDIV`, is an opaque constant: nothing can be proved of its value. -/

namespace Sys2Proof

/-- The two values of the OPEN parameter `P_CDIV` (R5, R78). -/
inductive CDiv where
  /-- `C = t / 16`, with its fraction -/
  | exact
  /-- `C = tdiv(t, 16)`, an integer, rounded toward zero -/
  | trunc
  deriving DecidableEq, Repr, Inhabited

namespace Config

/-- `P_CDIV` (R5, R78; 92_eei_decisions.md D16): OPEN, so it has no body and every claim holds for each value
(assumption log, entry 6). -/
opaque cdiv : CDiv

/-- The free values of the model: what the sensor's Temperature and Configuration hold before a transaction makes them
known (R14, 93_implementation_defined.md U8; assumption log, entry 9), and what R88 leaves open of the Configuration byte
after a failed write of SETMODE (entry 10). It has no body, so every claim holds for all of them. -/
opaque freeByte : Nat → Byte

/-- `P_ADDR_DEFAULT` (R5, R6). -/
def addrDefault : BitVec 7 := 0x48

/-- `P_PTR_TEMP` (R5, R15). PRESUMED: general knowledge, by the spec's own decision D11 (entry 7). -/
def ptrTemp : Byte := 0x00

/-- `P_PTR_CONFIG` (R5, R15). PRESUMED (entry 7). -/
def ptrConfig : Byte := 0x01

/-- `P_PTR_TLOW` (R5, R15). PRESUMED (entry 7). -/
def ptrTLow : Byte := 0x02

/-- `P_PTR_THIGH` (R5, R15). PRESUMED (entry 7). -/
def ptrTHigh : Byte := 0x03

/-- `P_OS_BIT`, the one-shot start bit of Configuration (R5, R21). PRESUMED: general knowledge, by the spec's own
decision D12 (entry 7). -/
def osBit : Nat := 7

/-- `P_SETTLE_MS`, in the 16-bit field `ms` of a delay request (R5, R37, R73). -/
def settleMs : BitVec 16 := 350

end Config

end Sys2Proof
end

