-- ==== Sys2Proof/Syntax.lean ====
section
/-! DEFINITION. The commands of the block (R4, R40), one constructor for each row of the opcode table, and the
assembler lines of R47. -/

namespace Sys2Proof

/-- The shutdown mode of R19: the value of `S.MODE_CACHE` (R7) and of the operand `M` (R43). -/
inductive Mode where
  /-- 0, continuous conversion -/
  | normal
  /-- 1, shutdown / one-shot -/
  | shutdown
  deriving DecidableEq, Repr

/-- The bit that stands for a mode (R19). -/
def Mode.bit : Mode → BitVec 1
  | .normal => 0
  | .shutdown => 1

/-- The mode that a bit stands for (R19, R43). -/
def Mode.ofBit (b : BitVec 1) : Mode := if b = 0 then .normal else .shutdown

/-- The ten commands (R40). The operands have the widths of R41 to R43: the resolution code has 2 bits, the
configuration byte 8, the mode 1. -/
inductive Instr where
  /-- INIT (R59) -/
  | init
  /-- INIT_RES (R60) -/
  | initRes (res : BitVec 2)
  /-- INIT_RES_MODE (R61) -/
  | initResMode (res : BitVec 2) (m : Mode)
  /-- GETCFG (R63) -/
  | getcfg
  /-- SETCFG (R64) -/
  | setcfg (data : Byte)
  /-- GETRES (R65) -/
  | getres
  /-- SETRES (R66) -/
  | setres (res : BitVec 2)
  /-- GETMODE (R68) -/
  | getmode
  /-- SETMODE (R69) -/
  | setmode (m : Mode)
  /-- READTEMP (R71) -/
  | readtemp
  deriving DecidableEq, Repr

/-- The mnemonic of a command (R40). -/
def Instr.mnemonic : Instr → String
  | .init => "INIT"
  | .initRes _ => "INIT_RES"
  | .initResMode _ _ => "INIT_RES_MODE"
  | .getcfg => "GETCFG"
  | .setcfg _ => "SETCFG"
  | .getres => "GETRES"
  | .setres _ => "SETRES"
  | .getmode => "GETMODE"
  | .setmode _ => "SETMODE"
  | .readtemp => "READTEMP"

/-- An assembler line (R47): a mnemonic with its operands as they are written, a resolution as a number of bits and
a byte as a number. A line may be ill-formed: `WellFormed.lean` says which lines an assembler refuses. -/
inductive Asm where
  | init
  | initRes (res : Nat)
  | initResMode (res : Nat) (m : Mode)
  | getcfg
  | setcfg (byte : Nat)
  | getres
  | setres (res : Nat)
  | getmode
  | setmode (m : Mode)
  | readtemp
  deriving DecidableEq, Repr

/-- An operand as it is written in an assembler line (R47): a number, or a name such as `SHUTDOWN`. -/
inductive AsmOperand where
  | number (n : Nat)
  | name (s : String)
  deriving DecidableEq, Repr

end Sys2Proof
end

