-- ==== Sys2Proof/WellFormed.lean ====
section
/-! DEFINITION. Which assembler lines are well-formed (R47), and the command a well-formed line stands for. A command of
type `Instr` needs no check of its own: its operand types admit exactly the values of R41 to R43, so that an illegal
operand cannot be built. -/

namespace Sys2Proof

/-- `<res>` is one of 9, 10, 11, 12 (R47). -/
def resolutionOk (res : Nat) : Bool := 9 ≤ res && res ≤ 12

/-- `<byte>` is 0x00 to 0xFF (R47). -/
def byteOk (byte : Nat) : Bool := byte ≤ 0xFF

/-- The operands an assembler accepts (R47: "An assembler refuses any other operand"). -/
def Asm.wellFormed : Asm → Bool
  | .initRes res => resolutionOk res
  | .initResMode res _ => resolutionOk res
  | .setres res => resolutionOk res
  | .setcfg byte => byteOk byte
  | .init => true
  | .getcfg => true
  | .getres => true
  | .getmode => true
  | .setmode _ => true
  | .readtemp => true

/-- The resolution code of a number of bits, `res − 9` (R20, R47). -/
def resolutionCode (res : Nat) : BitVec 2 := BitVec.ofNat 2 (res - 9)

/-- The command a line stands for, whatever its operands' ranges (R47). -/
def Asm.toInstr : Asm → Instr
  | .init => .init
  | .initRes res => .initRes (resolutionCode res)
  | .initResMode res m => .initResMode (resolutionCode res) m
  | .getcfg => .getcfg
  | .setcfg byte => .setcfg (BitVec.ofNat 8 byte)
  | .getres => .getres
  | .setres res => .setres (resolutionCode res)
  | .getmode => .getmode
  | .setmode m => .setmode m
  | .readtemp => .readtemp

end Sys2Proof
end

