-- ==== Sys2Proof/Decode.lean ====
section
/-! DEFINITION. The command word (R39): which words are legal (R44 to R46), the command of a legal word, and the word of a
command. -/

namespace Sys2Proof

/-- Why a word is no command. -/
inductive Reject where
  /-- `OP` is 0x0 or 0xB to 0xF (R45) -/
  | reservedOpcode (op : BitVec 4)
  /-- the opcode is one of the ten, and a bit its command does not use is 1 (R44) -/
  | unusedBitSet (op : BitVec 4)
  deriving DecidableEq, Repr

/-- What the decoder reads from a word. -/
inductive Decoded where
  | ok (i : Instr)
  | rejected (why : Reject)
  deriving DecidableEq, Repr

/-- `OP`, bits [15:12] (R39). -/
def fieldOp (w : Word) : BitVec 4 := w.extractLsb' 12 4

/-- `RES`, bits [9:8] (R39, R41). -/
def fieldRes (w : Word) : BitVec 2 := w.extractLsb' 8 2

/-- `DATA`, bits [7:0] (R39, R42). -/
def fieldData (w : Word) : Byte := w.extractLsb' 0 8

/-- `M` = `DATA[0]` (R39, R43). -/
def fieldMode (w : Word) : Mode := Mode.ofBit (w.extractLsb' 0 1)

/-- The command `i`, if the bits that `mustBeZero` marks are 0 in `w`; else the rejection of R44. -/
def ifUnusedZero (w mustBeZero : Word) (i : Instr) : Decoded :=
  if w &&& mustBeZero = 0 then .ok i else .rejected (.unusedBitSet (fieldOp w))

/-- The decoder: the opcode map of R40 with the bits that must be 0 of R44. It decides from the word alone (R46). -/
def decode (w : Word) : Decoded :=
  match (fieldOp w).toNat with
  | 0x1 => ifUnusedZero w 0x0FFF .init
  | 0x2 => ifUnusedZero w 0x0CFF (.initRes (fieldRes w))
  | 0x3 => ifUnusedZero w 0x0CFE (.initResMode (fieldRes w) (fieldMode w))
  | 0x4 => ifUnusedZero w 0x0FFF .getcfg
  | 0x5 => ifUnusedZero w 0x0F00 (.setcfg (fieldData w))
  | 0x6 => ifUnusedZero w 0x0FFF .getres
  | 0x7 => ifUnusedZero w 0x0CFF (.setres (fieldRes w))
  | 0x8 => ifUnusedZero w 0x0FFF .getmode
  | 0x9 => ifUnusedZero w 0x0FFE (.setmode (fieldMode w))
  | 0xA => ifUnusedZero w 0x0FFF .readtemp
  | _ => .rejected (.reservedOpcode (fieldOp w))

/-- `RES` in bits [9:8] (R39). -/
def placeRes (res : BitVec 2) : Word := res.setWidth 16 <<< 8

/-- `M` in bit [0] (R39, R43). -/
def placeMode (m : Mode) : Word := m.bit.setWidth 16

/-- The encoder: the word of each command (R47, R59 to R71). -/
def encode : Instr → Word
  | .init => 0x1000
  | .initRes res => 0x2000 ||| placeRes res
  | .initResMode res m => 0x3000 ||| placeRes res ||| placeMode m
  | .getcfg => 0x4000
  | .setcfg data => 0x5000 ||| data.setWidth 16
  | .getres => 0x6000
  | .setres res => 0x7000 ||| placeRes res
  | .getmode => 0x8000
  | .setmode m => 0x9000 ||| placeMode m
  | .readtemp => 0xA000

/-- A row of the opcode table: a word is the row's when its bits under `mask` are `pattern` (R46). -/
structure OpcodeRow where
  mnemonic : String
  mask : Word
  pattern : Word
  deriving DecidableEq, Repr

/-- The ten rows of the opcode table (R46). -/
def opcodeRows : List OpcodeRow :=
  [ ⟨"INIT", 0xFFFF, 0x1000⟩,
    ⟨"INIT_RES", 0xFCFF, 0x2000⟩,
    ⟨"INIT_RES_MODE", 0xFCFE, 0x3000⟩,
    ⟨"GETCFG", 0xFFFF, 0x4000⟩,
    ⟨"SETCFG", 0xFF00, 0x5000⟩,
    ⟨"GETRES", 0xFFFF, 0x6000⟩,
    ⟨"SETRES", 0xFCFF, 0x7000⟩,
    ⟨"GETMODE", 0xFFFF, 0x8000⟩,
    ⟨"SETMODE", 0xFFFE, 0x9000⟩,
    ⟨"READTEMP", 0xFFFF, 0xA000⟩ ]

/-- `legal(w)` of R46: some row of the opcode table is the word's. -/
def legal (w : Word) : Bool := opcodeRows.any fun r => w &&& r.mask == r.pattern

/-- The word an assembler writes for a line, if it accepts the line (R47). -/
def assemble (a : Asm) : Option Word := if a.wellFormed then some (encode a.toInstr) else none

/-- `<mode>` of R47: `NORMAL` or `SHUTDOWN`. -/
def modeNamed (s : String) : Option Mode :=
  if s = "NORMAL" then some .normal else if s = "SHUTDOWN" then some .shutdown else none

/-- The line that a mnemonic and its operands make (R47); no line for any other mnemonic or list of operands. -/
def Asm.ofTokens (mnemonic : String) (operands : List AsmOperand) : Option Asm :=
  match operands with
  | [] =>
    if mnemonic = "INIT" then some .init
    else if mnemonic = "GETCFG" then some .getcfg
    else if mnemonic = "GETRES" then some .getres
    else if mnemonic = "GETMODE" then some .getmode
    else if mnemonic = "READTEMP" then some .readtemp
    else none
  | [.number n] =>
    if mnemonic = "INIT_RES" then some (.initRes n)
    else if mnemonic = "SETRES" then some (.setres n)
    else if mnemonic = "SETCFG" then some (.setcfg n)
    else none
  | [.name s] => if mnemonic = "SETMODE" then (modeNamed s).map .setmode else none
  | [.number n, .name s] => if mnemonic = "INIT_RES_MODE" then (modeNamed s).map (.initResMode n) else none
  | _ => none

/-- The command of a decoded word, if it is legal. -/
def Decoded.toOption : Decoded → Option Instr
  | .ok i => some i
  | .rejected _ => none

/-- The command in the word whose bits are `w`, numbered as the opcode table numbers them. Every command is one
16-bit word on the command port (R48), which has no byte order: bit `k` of `w` is `cmd[k]`. -/
def decodeTableWord (nbits w : Nat) : Option Instr := (decode (BitVec.ofNat 16 (w % 2 ^ nbits))).toOption

end Sys2Proof
end

