-- ==== Sys2Proof/Machine/State.lean ====
section
/-! DEFINITION. The state of the block, of its ports and of the agents around it, as plain data; the reasons a step can
stop; the state after reset. -/

namespace Sys2Proof.Machine

/-- The sensor's four registers (R14). -/
inductive Reg where
  | temp
  | config
  | tlow
  | thigh
  deriving DecidableEq, Repr

/-- `dev_ptr`, the sensor's pointer as a model observes it (R16). -/
inductive DevPtr where
  /-- the pointer names this register -/
  | known (r : Reg)
  /-- `UNKNOWN` -/
  | unknown
  deriving DecidableEq, Repr

/-- `S.state` (R8). -/
inductive SeqState where
  | idle
  | busy
  deriving DecidableEq, Repr

/-- The field `kind` of a request on the transport port (R37). -/
inductive Kind where
  /-- 0 `BEGIN` -/
  | begin
  /-- 1 `SETPTR` -/
  | setPtr
  /-- 2 `WRITE1` -/
  | write1
  /-- 3 `READN` -/
  | readN
  deriving DecidableEq, Repr

/-- A request on the transport port (R37). -/
structure TransportRequest where
  kind : Kind
  addr : BitVec 7
  ptr : Byte
  data : Byte
  count : BitVec 2
  deriving DecidableEq, Repr

/-- A request on one of the block's two ports (R3, R37). -/
inductive Request where
  | transport (q : TransportRequest)
  | delay (ms : BitVec 16)
  deriving DecidableEq, Repr

/-- A response on the transport port (R38): a status, and the bytes received, first received first. A `BEGIN` reads
neither field of its response, a `SETPTR` or a `WRITE1` reads the status alone (entry 18). -/
structure Response where
  xstatus : Byte
  bytes : List Byte
  deriving DecidableEq, Repr

/-- One move of one agent (R2). The list `State.agenda` says which agent moves next. -/
inductive Move where
  /-- the block -/
  | block
  /-- the host lines up a further command word on the command port (R49) -/
  | offer (w : Word)
  /-- the host asserts `rst` with `addr_init` (R99) -/
  | reset (addrInit : BitVec 7)
  /-- the transport gives a response (R38): to the oldest request that has none, so first to those that a reset abandoned
  (entry 11) -/
  | answer (rsp : Response)
  /-- the delay primitive completes a delay request (R28) -/
  | delayDone
  /-- the sensor sets its own Configuration register, as at power-on (U8) -/
  | sensor (cfg : Byte)
  /-- the sensor sets its Temperature register, at power-on or by a conversion (R19, R23, U8, U14) -/
  | convert (w : Word)
  /-- another bus master's transaction, with what the transport answered it (R16, R33, R106) -/
  | other (q : TransportRequest) (rsp : Response)
  deriving DecidableEq, Repr

/-- The sensor's register space: byte `d` at address `a` for each listed `(a, d)`, `d` a byte that a transaction has made
known or a free value. The address of a register's byte comes from the bus address, the pointer byte and the byte's place
in the register (R15, R17). Of an unlisted address nothing is known (entry 9). -/
abbrev Memory := List Host.Cell

/-- The machine. The fields up to `devPtr` and `mem` are the spec's; the last ones belong to the agents around the
block, and to the model's observation of its ports. -/
structure State where
  /-- `S.ADDR` (R6) -/
  addr : BitVec 7
  /-- `S.MODE_CACHE` (R7) -/
  modeCache : Mode
  /-- `S.state` (R8) -/
  seq : SeqState
  /-- `S.cmd` (R8) -/
  cmd : Word
  /-- `S.step` (R8) -/
  stepIdx : BitVec 4
  /-- `S.STATUS` (R9) -/
  status : Word
  /-- `S.RESULT` (R10) -/
  result : Word
  /-- `S.TEMPF` (R11) -/
  tempf : BitVec 32
  /-- the `done` pulse (R3, R51) -/
  done : Bool
  /-- `CFG_TMP` (R13) -/
  cfgTmp : Byte
  /-- `RX` (R13) -/
  rx : List Byte
  /-- `W` (R13) -/
  wordTmp : Word
  /-- `T16` (R13) -/
  t16 : Word
  /-- the outstanding request, at most one (R33) -/
  outstanding : Option Request
  /-- the transport requests that a reset abandoned and that have had no response yet, oldest first (R100) -/
  lateRequests : List TransportRequest
  /-- how many completions the delay primitive still owes to requests that a reset abandoned (R100) -/
  lateDelays : Nat
  /-- `dev_ptr` (R16) -/
  devPtr : DevPtr
  /-- the contents of the sensor's registers (R14): what transactions have made known (R26), and free values (U8) -/
  mem : Memory
  /-- the command words the host offers, its head on the command port with `cmd_valid` = 1 (R3, R49) -/
  offers : List Word
  /-- the transport's responses that the block has not taken, the next one first: draws (R27, U9) -/
  answers : List Response
  /-- how many completions of the delay primitive the block has not taken (R28) -/
  completions : Nat
  /-- which agent moves next (R2); the block does when nothing is listed -/
  agenda : List Move
  /-- every request the block has sent on its ports, oldest first: an observation of the model that no rule reads. That
  each of them is answered in the end is the weak fairness of R111, `WeaklyFair` in Safety.lean (entry 15) -/
  sent : List Request
  /-- how many free values have been used: the model's own counter (entry 10) -/
  freeCount : Nat
  deriving DecidableEq, Repr

/-- Why a step could fault: never. The block has no trap (60_exceptions.md): a failure of a command is an outcome in
STATUS (R84) and a transport that never answers is a hang (R111). The type has no constructor (safe; entry 17). -/
inductive Fault where
  deriving DecidableEq, Repr

/-- Why a step could be refused. -/
inductive Refusal where
  /-- raised by `exec` for an instruction that has no meaning yet; no arm raises it (safe) -/
  | notModelled (mnemonic : String)
  deriving DecidableEq, Repr

/-- The machine right after construction with the default address (R99, and the table of 10_state.md section 6). The
values that the spec does not give are those of the assumption log, entries 2, 3, 5, 10 and 13. The sensor's Temperature
(its cells 0 and 1) and Configuration hold free values (R14, U8; entry 9): `reset_mem` says that this is `sensorHolds`. -/
def State.reset : State where
  addr := Config.addrDefault
  modeCache := .normal
  seq := .idle
  cmd := 0x0000
  stepIdx := 0
  status := 0x0000
  result := 0x0000
  tempf := 0x00000000
  done := false
  cfgTmp := 0x00
  rx := []
  wordTmp := 0x0000
  t16 := 0x0000
  outstanding := none
  lateRequests := []
  lateDelays := 0
  devPtr := .unknown
  mem :=
    [((Config.addrDefault.toNat * 256 + Config.ptrTemp.toNat) * 2, Config.freeByte 0),
     ((Config.addrDefault.toNat * 256 + Config.ptrTemp.toNat) * 2 + 1, Config.freeByte 1),
     ((Config.addrDefault.toNat * 256 + Config.ptrConfig.toNat) * 2, Config.freeByte 2)]
  offers := []
  answers := []
  completions := 0
  agenda := []
  sent := []
  freeCount := 3

end Sys2Proof.Machine
end

