-- ==== Sys2Proof/Machine/Memory.lean ====
section
/-! DEFINITION. Reading, writing and forgetting one byte of the sensor's register space, on the canonical form of the
list: addresses strictly rising. A listed byte is one that a transaction has made known, or a free value; no cell is listed
for a byte of which nothing is known, so equal knowledge is equal data. -/

namespace Sys2Proof.Machine

/-- The canonical form: addresses strictly rising. -/
def Memory.wf : Memory → Bool
  | [] => true
  | [_] => true
  | c :: c' :: m => decide (c.1 < c'.1) && Memory.wf (c' :: m)

/-- The byte known at an address, if any. -/
def Memory.read (m : Memory) (a : Nat) : Option Byte :=
  match m with
  | [] => none
  | c :: m => if c.1 = a then some c.2 else Memory.read m a

/-- The byte `d` at address `a` (R26). -/
def Memory.write (m : Memory) (a : Nat) (d : Byte) : Memory :=
  match m with
  | [] => [(a, d)]
  | c :: m => if a < c.1 then (a, d) :: c :: m else if a = c.1 then (a, d) :: m else c :: Memory.write m a d

/-- The byte at address `a` is no longer known (R88, R109). -/
def Memory.forget (m : Memory) (a : Nat) : Memory :=
  match m with
  | [] => []
  | c :: m => if c.1 = a then m else c :: Memory.forget m a

/-- The byte `d` at address `a`, if none is listed there. -/
def Memory.fill (m : Memory) (a : Nat) (d : Byte) : Memory :=
  match m.read a with
  | none => m.write a d
  | some _ => m

/-- The address of byte `k` (0 or 1) of a register in the model's memory, from the bus address and the pointer byte (R15,
R17; entry 9). -/
def registerCell (addr : BitVec 7) (ptr : Byte) (k : Nat) : Nat := (addr.toNat * 256 + ptr.toNat) * 2 + k

/-- The address of the one byte of Configuration of the sensor at `addr` (R14, R15). -/
def configCell (addr : BitVec 7) : Nat := registerCell addr Config.ptrConfig 0

/-- The addresses of the two bytes of Temperature of the sensor at `addr`: the high byte, sent first, is byte 0 (R14, R15,
R23). -/
def tempCell (addr : BitVec 7) (k : Nat) : Nat := registerCell addr Config.ptrTemp k

/-- The sensor at `addr` holds a byte in each place of Temperature and of Configuration (R14). Those that no transaction
has made known are draws (93_implementation_defined.md U8): the free values from number `n` on (entry 9). -/
def sensorHolds (addr : BitVec 7) (n : Nat) (m : Memory) : Memory :=
  ((m.fill (tempCell addr 0) (Config.freeByte n)).fill (tempCell addr 1) (Config.freeByte (n + 1))).fill
    (configCell addr) (Config.freeByte (n + 2))

end Sys2Proof.Machine
end

