-- ==== Sys2Proof/Machine/Operands.lean ====
section
/-! DEFINITION. The operand forms: the pointer byte of a register (R15), the request records (R37), and what each command
writes into the Configuration byte (R18 to R22, R60 to R72) and reads from it (R65). -/

namespace Sys2Proof.Machine

/-- `code(r)`: the pointer byte of a register (R15). -/
def Reg.code : Reg → Byte
  | .temp => Config.ptrTemp
  | .config => Config.ptrConfig
  | .tlow => Config.ptrTLow
  | .thigh => Config.ptrTHigh

/-- The pointer that a pointer byte leaves (R15, R16); a byte that is no register's code leaves it unknown (entry 8). -/
def pointerOf (ptr : Byte) : DevPtr :=
  if ptr = Config.ptrTemp then .known .temp
  else if ptr = Config.ptrConfig then .known .config
  else if ptr = Config.ptrTLow then .known .tlow
  else if ptr = Config.ptrTHigh then .known .thigh
  else .unknown

/-- The 2-bit code of a request's kind (R37). -/
def Kind.code : Kind → BitVec 2
  | .begin => 0
  | .setPtr => 1
  | .write1 => 2
  | .readN => 3

/-- `Begin()` (R24, R37): every field but the kind is 0. -/
def beginRequest : Request := .transport ⟨.begin, 0, 0, 0, 0⟩

/-- `SetPtr(r)` (R25, R37). -/
def setPtrRequest (addr : BitVec 7) (r : Reg) : Request := .transport ⟨.setPtr, addr, r.code, 0, 0⟩

/-- `MemWrite(r, 1, v)` (R26, R37). -/
def writeRequest (addr : BitVec 7) (r : Reg) (v : Byte) : Request := .transport ⟨.write1, addr, r.code, v, 0⟩

/-- `MemRead(r, n)` (R27, R37). -/
def readRequest (addr : BitVec 7) (r : Reg) (n : BitVec 2) : Request := .transport ⟨.readN, addr, r.code, 0, n⟩

/-- `Delay(P_SETTLE_MS)` (R28, R73): the one delay request the block issues. -/
def settleRequest : Request := .delay Config.settleMs

/-- How the byte that a command writes to Configuration comes from the byte it read (R22). -/
inductive ConfigEdit where
  /-- the operand `DATA`, whatever was read (R64) -/
  | verbatim (data : Byte)
  /-- bits [6:5] become the resolution code (R66) -/
  | resolution (res : BitVec 2)
  /-- bit [0] becomes the mode (R69) -/
  | mode (m : Mode)
  /-- bit `P_OS_BIT` becomes 1 (R72) -/
  | oneShot
  deriving DecidableEq, Repr

/-- The byte written to Configuration, from the byte `c` read (R64, R66, R69, R72). -/
def editConfig (e : ConfigEdit) (c : Byte) : Byte :=
  match e with
  | .verbatim data => data
  | .resolution res => (c &&& 0x9F) ||| (res.setWidth 8 <<< 5)
  | .mode m => (c &&& 0xFE) ||| m.bit.setWidth 8
  | .oneShot => c ||| (1 <<< Config.osBit)

/-- The field `R` of a configuration byte, bits [6:5] (R18, R20). -/
def resolutionField (c : Byte) : BitVec 2 := c.extractLsb' 5 2

/-- The field `SD` of a configuration byte, bit [0] (R18, R19). -/
def shutdownField (c : Byte) : BitVec 1 := c.extractLsb' 0 1

/-- The result of GETRES, 9 to 12 (R65). -/
def resolutionResult (c : Byte) : Word := (resolutionField c).setWidth 16 + 9

end Sys2Proof.Machine
end

