-- ==== Sys2Proof/Machine/Flags.lean ====
section
/-! DEFINITION. The outcome of a command and its STATUS word (R9, R84 to R88): the block's only status flags (R12). -/

namespace Sys2Proof.Machine

/-- The outcomes of R84. -/
inductive OutcomeCode where
  /-- 0 -/
  | ok
  /-- 1 -/
  | busErr
  /-- 2 -/
  | noData
  /-- 3 -/
  | illegal
  deriving DecidableEq, Repr

/-- The value of the field CODE (R9, R84). -/
def OutcomeCode.bits : OutcomeCode → BitVec 3
  | .ok => 0
  | .busErr => 1
  | .noData => 2
  | .illegal => 3

/-- `{XCODE, STEP, 0, CODE}` in the layout of R9 (R88). -/
def statusWord (xcode : Byte) (k : BitVec 4) (code : OutcomeCode) : Word := xcode ++ k ++ (0 : BitVec 1) ++ code.bits

/-- `STATUS.CODE`, bits [2:0] (R9). -/
def statusCode (w : Word) : BitVec 3 := w.extractLsb' 0 3

/-- Bit [3] of STATUS, reserved (R9). -/
def statusReserved (w : Word) : BitVec 1 := w.extractLsb' 3 1

/-- `STATUS.STEP`, bits [7:4] (R9). -/
def statusStep (w : Word) : BitVec 4 := w.extractLsb' 4 4

/-- `STATUS.XCODE`, bits [15:8] (R9). -/
def statusXcode (w : Word) : Byte := w.extractLsb' 8 8

/-- What `Issue` makes of the response to a transport request (R52): go on with the bytes returned, or raise one of two
outcomes. -/
inductive Reply where
  | returned (bytes : List Byte)
  | busError (xstatus : Byte)
  | noData
  deriving DecidableEq, Repr

/-- The case analysis of `Issue` (R52; R29, R85, R86, R89): a `BEGIN` always returns; a status other than 0 is a bus
error, whatever bytes came with it; too few bytes are no data; bytes beyond `count` are ignored. -/
def reply (q : TransportRequest) (rsp : Response) : Reply :=
  match q.kind with
  | .begin => .returned []
  | .setPtr => if rsp.xstatus = 0 then .returned [] else .busError rsp.xstatus
  | .write1 => if rsp.xstatus = 0 then .returned [] else .busError rsp.xstatus
  | .readN =>
    if rsp.xstatus = 0 then
      if rsp.bytes.length < q.count.toNat then .noData else .returned (rsp.bytes.take q.count.toNat)
    else .busError rsp.xstatus

end Sys2Proof.Machine
end

