-- ==== Sys2Proof/Machine/Decoder.lean ====
section
/-! DEFINITION. The temperature decoder (R75 to R81): a function of the two bytes received and of `P_CDIV` alone. -/

namespace Sys2Proof.Machine

/-- `W = {b[0], b[1]}`: the first byte received is the high byte (R30, R75). -/
def assembleWord (b0 b1 : Byte) : Word := b0 ++ b1

/-- `t12 = W[15:4]` (R76). -/
def field12 (w : Word) : BitVec 12 := w.extractLsb' 4 12

/-- `T16 = sext_16(t12)` (R77). -/
def signExtend12 (t12 : BitVec 12) : Word := t12.signExtend 16

/-- `T16` of a temperature word (R76, R77). -/
def t16Of (w : Word) : Word := signExtend12 (field12 w)

/-- Celsius (R78) in units of 1/16 °C: `t` itself under EXACT, sixteen times the quotient rounded toward zero under
TRUNC. Where `t` is a multiple of 16 the two agree (R78), and no value of `P_CDIV` is asked for. -/
def celsiusSixteenths (d : CDiv) (t : Int) : Int :=
  if t % 16 = 0 then t
  else
    match d with
    | .exact => t
    | .trunc => 16 * t.tdiv 16

/-- The numerator of `F = 9/5 * C + 32` over the denominator 80, for `C = c16 / 16` (R80). -/
def fahrenheitNum (c16 : Int) : Int := 9 * c16 + 2560

/-- The denominator of `fahrenheitNum` (R80). -/
def fahrenheitDen : Nat := 80

/-- The integer nearest to `a / b`, ties to even. -/
def roundDiv (a b : Nat) : Nat :=
  let q := a / b
  let r := a % b
  if 2 * r < b then q else if b < 2 * r then q + 1 else q + q % 2

/-- `a * 2 ^ e / b` rounded to the nearest integer, ties to even, for an exponent of either sign. -/
def roundScaled (a b : Nat) (e : Int) : Nat :=
  if 0 ≤ e then roundDiv (a * 2 ^ e.toNat) b else roundDiv a (b * 2 ^ (-e).toNat)

/-- Whether `2 ^ e ≤ a / b`. -/
def pow2Le (e : Int) (a b : Nat) : Bool :=
  if 0 ≤ e then b * 2 ^ e.toNat ≤ a else b ≤ a * 2 ^ (-e).toNat

/-- The exponent `e` with `2 ^ e ≤ a / b < 2 ^ (e + 1)`, for `a` and `b` not 0. -/
def binade (a b : Nat) : Int :=
  let e : Int := (Nat.log2 a : Int) - (Nat.log2 b : Int)
  if pow2Le e a b then e else e - 1

/-- The magnitude bits of binary32 nearest to `a / b`, ties to even (R5, R81). The exponent is at least -126 (below it
lie the subnormals) and a value too large becomes infinity; R81 says that neither case arises for a temperature
(PRESUMED from IEEE 754, entry 19). -/
def magnitude32 (a b : Nat) : Nat :=
  if a = 0 then 0
  else
    let e := max (binade a b) (-126)
    let bits := (e + 126).toNat * 2 ^ 23 + roundScaled a b (23 - e)
    if bits < 0x7F800000 then bits else 0x7F800000

/-- `toF32(num / den)`: one rounding of an exact rational to binary32, to nearest, ties to even (R5, R81). -/
def toF32 (num : Int) (den : Nat) : BitVec 32 :=
  if num < 0 then 0x80000000 ||| BitVec.ofNat 32 (magnitude32 num.natAbs den)
  else BitVec.ofNat 32 (magnitude32 num.natAbs den)

/-- `toF32(F)` for a temperature `T16` (R78, R80, R81). -/
def fahrenheit32 (d : CDiv) (t16 : Word) : BitVec 32 :=
  toF32 (fahrenheitNum (celsiusSixteenths d t16.toInt)) fahrenheitDen

end Sys2Proof.Machine
end

