-- ==== Sys2Proof/Machine/Ops.lean ====
section
/-! DEFINITION. The operations that every command is built from: the effect of a transaction on the sensor (R16, R26), the
command frame (R49 to R52), the recording of a failure (R88), the reset (R99, R100), and the run of a command's
sequence of actions. -/

namespace Sys2Proof.Machine

/-- The register a transport request names answered, its effect on `dev_ptr` (R16): success leaves the register's code,
a failure or a short read leaves UNKNOWN, `BEGIN` leaves it as it was. A transaction at another bus address does not
reach this sensor (R95). -/
def pointerAfter (q : TransportRequest) (rsp : Response) (s : State) : DevPtr :=
  match q.kind with
  | .begin => s.devPtr
  | _ =>
    if q.addr = s.addr then
      match reply q rsp with
      | .returned _ => pointerOf q.ptr
      | _ => .unknown
    else s.devPtr

/-- The effect of a transaction on the sensor's registers: after a `WRITE1` to Configuration with status 0 it holds the
byte (R26), after one that failed it is unknown (R88, R109; entry 10). No other transaction writes a register the model
gives a content to (R32, U10, U17). A write with a pointer byte that is none of the four codes of R15, which only
another master can make, keeps every byte: DESIGN CHOICE, the spec does not say what it does (entry 29). What of the
sensor survives a write that sets `SD` is not in the source (R96); DESIGN CHOICE: the bytes of Temperature stay as they
are, after such a write and after one that clears `SD` (entry 27). -/
def memoryAfter (q : TransportRequest) (rsp : Response) (m : Memory) : Memory :=
  match q.kind with
  | .write1 =>
    if q.ptr = Config.ptrConfig then
      if rsp.xstatus = 0 then m.write (configCell q.addr) q.data else m.forget (configCell q.addr)
    else m
  | _ => m

/-- A transaction of the block, as the sensor takes it. When it does, between the request and its response, the spec
does not say: DESIGN CHOICE, in the block's turn that takes the response (entry 26). -/
def transact (q : TransportRequest) (rsp : Response) (s : State) : State :=
  { s with devPtr := pointerAfter q rsp s, mem := memoryAfter q rsp s.mem }

/-- What another master's transaction leaves known of the sensor's registers. What a write to the read-only Temperature
register does is not in the source (U17): the register is then unknown (entry 12). A write with a pointer byte of no
register keeps every byte (entry 29). -/
def memoryAfterOther (q : TransportRequest) (rsp : Response) (m : Memory) : Memory :=
  if q.kind = .write1 ∧ q.ptr = Config.ptrTemp then (m.forget (tempCell q.addr 0)).forget (tempCell q.addr 1)
  else memoryAfter q rsp m

/-- What an abandoned request, performed or not, leaves known of Configuration (R100): nothing if it would write it. That
Temperature stays as it is, even if the request would set `SD` (R96), is the model's choice (entry 27). -/
def forgetWritten (q : TransportRequest) (m : Memory) : Memory :=
  if q.kind = .write1 ∧ q.ptr = Config.ptrConfig then m.forget (configCell q.addr) else m

/-- What is known of the sensor's registers while abandoned requests may still be performed (R100). -/
def forgetLate (late : List TransportRequest) (m : Memory) : Memory :=
  match late with
  | [] => m
  | q :: late => forgetLate late (forgetWritten q m)

/-- Whether an abandoned request may still move the pointer of the block's sensor (R16, R100). -/
def pointerInDoubt (s : State) : Bool := s.lateRequests.any fun q => q.kind != .begin && q.addr == s.addr

/-- A transaction by another bus master (R16, R33, R106). While a request that a reset abandoned may still be performed
after it, what that one would change stays unknown (R100). -/
def transactOther (q : TransportRequest) (rsp : Response) (s : State) : State :=
  { s with devPtr := if pointerInDoubt s then .unknown else pointerAfter q rsp s,
           mem := forgetLate s.lateRequests (memoryAfterOther q rsp s.mem) }

/-- The sensor sets its own Configuration (U8), which stays unknown while an abandoned write may still be performed
(R100). Temperature stays as it is, whatever `SD` becomes (R96): DESIGN CHOICE (entry 27). -/
def sensorConfig (cfg : Byte) (s : State) : State :=
  { s with mem := forgetLate s.lateRequests (s.mem.write (configCell s.addr) cfg) }

/-- The sensor at the block's address has the word `w` in its Temperature register (R23), whatever its `SD` is (R19, R96;
entries 12 and 27). -/
def convert (w : Word) (s : State) : State :=
  { s with mem := (s.mem.write (tempCell s.addr 0) (w.extractLsb' 8 8)).write (tempCell s.addr 1) (w.extractLsb' 0 8) }

/-- The register that a bare read by another bus agent would return (R16). -/
def bareReadTarget (s : State) : DevPtr := s.devPtr

/-- What a bare read by another bus agent would return, as far as it is known (R16, R105): the bytes of the register that
the pointer names. -/
def bareRead (s : State) : Option (List Byte) :=
  match bareReadTarget s with
  | .known .temp =>
    match s.mem.read (tempCell s.addr 0), s.mem.read (tempCell s.addr 1) with
    | some hi, some lo => some [hi, lo]
    | _, _ => none
  | .known .config => (s.mem.read (configCell s.addr)).map fun c => [c]
  | .known .tlow => none
  | .known .thigh => none
  | .unknown => none

/-- The `busy` output (R8). -/
def busyOutput (s : State) : Bool := s.seq == .busy

/-- TAKING AN OUTCOME: what every `raise` does (R51, R85 to R88). STATUS is written, the block is IDLE and raises `done`;
RESULT and TEMPF keep the zero of R50. -/
def raiseOutcome (code : OutcomeCode) (xcode : Byte) (k : BitVec 4) (s : State) : State :=
  { s with status := statusWord xcode k code, seq := .idle, done := true, outstanding := none }

/-- Completion with CODE = OK (R51): STATUS keeps the zero of R50. -/
def completeOk (s : State) : State := { s with seq := .idle, done := true }

/-- What a command returns when its sequence has run to its end (R10, R11). -/
inductive Finish where
  /-- no value: RESULT and TEMPF keep the zero of R50 -/
  | nothing
  /-- the configuration byte (R63) -/
  | config
  /-- the resolution in bits (R65) -/
  | resolution
  /-- the cached mode (R68) -/
  | mode
  /-- the temperature (R71) -/
  | temperature
  deriving DecidableEq, Repr

/-- The temperature stages of READTEMP (R71, R75 to R81) on the two bytes in `RX`. -/
def returnTemperature (s : State) : State :=
  let w := assembleWord (s.rx.getD 0 0) (s.rx.getD 1 0)
  { s with wordTmp := w, t16 := t16Of w, result := t16Of w, tempf := fahrenheit32 Config.cdiv (t16Of w) }

/-- The last lines of a command: its result registers (R10, R11). -/
def returnValue (f : Finish) (s : State) : State :=
  match f with
  | .nothing => s
  | .config => { s with result := s.cfgTmp.setWidth 16 }
  | .resolution => { s with result := resolutionResult s.cfgTmp }
  | .mode => { s with result := s.modeCache.bit.setWidth 16 }
  | .temperature => returnTemperature s

/-- One line of a command's sequence: a cache write, or a primitive that issues one request (R24 to R28, R53 to R56). -/
inductive MicroOp where
  /-- `S.MODE_CACHE <- m`; no request -/
  | cache (m : Mode)
  /-- `Issue(Begin())` -/
  | begin
  /-- `select_register(r)` (R53) -/
  | select (r : Reg)
  /-- `c <- read_register(r)` (R54) -/
  | read (r : Reg)
  /-- `write_register(r, v)` (R55), `v` made from `c`; `kept` masks the bits of Configuration that the command's rule
  says a failure leaves unchanged (R69) -/
  | write (r : Reg) (e : ConfigEdit) (kept : Byte)
  /-- `Issue(Delay(P_SETTLE_MS))` (R73) -/
  | settle
  /-- `b <- Issue(MemRead(r, 2))` (R74) -/
  | burst (r : Reg)
  deriving DecidableEq, Repr

/-- `RestorePtr()` (R56). -/
def restorePtr : MicroOp := .select .temp

/-- The request of an action, if it has one (R24 to R28, R37, R53 to R55). -/
def requestOf (a : MicroOp) (s : State) : Option Request :=
  match a with
  | .cache _ => none
  | .begin => some beginRequest
  | .select r => some (setPtrRequest s.addr r)
  | .read r => some (readRequest s.addr r 1)
  | .write r e _ => some (writeRequest s.addr r (editConfig e s.cfgTmp))
  | .settle => some settleRequest
  | .burst r => some (readRequest s.addr r 2)

/-- Whether an action issues a request. -/
def isRequest (a : MicroOp) : Bool :=
  match a with
  | .cache _ => false
  | .begin => true
  | .select _ => true
  | .read _ => true
  | .write _ _ _ => true
  | .settle => true
  | .burst _ => true

/-- The effect of an action that issues no request (R7). -/
def internalEffect (a : MicroOp) (s : State) : State :=
  match a with
  | .cache m => { s with modeCache := m }
  | _ => s

/-- Where the bytes of a completed request go (R13): a `READN` leaves them in `RX`, and `read_register` its byte in
`CFG_TMP`. Those of a `READN` that fails or is short go nowhere: DESIGN CHOICE (entry 5). -/
def receive (a : MicroOp) (bytes : List Byte) (s : State) : State :=
  match a with
  | .read _ => { s with rx := bytes, cfgTmp := bytes.getD 0 0 }
  | .burst _ => { s with rx := bytes }
  | _ => s

/-- What `Issue` does with a request (R52): it waits, or returns, or raises an outcome. -/
inductive Issued where
  | waiting (s : State)
  | returned (bytes : List Byte) (s : State)
  | raised (s : State)
  deriving DecidableEq, Repr

/-- The request goes out on its port, once (R33, R57): one that is outstanding already is not sent again. One that a reset
abandoned is no longer the block's outstanding request (R3, R33), so after the reset a new request goes out even while the
response of an abandoned one is still owed: DESIGN CHOICE, R100 does not say (entry 28). -/
def send (q : Request) (s : State) : State :=
  match s.outstanding with
  | none => { s with outstanding := some q, sent := s.sent ++ [q] }
  | some _ => s

/-- The bookkeeping of a request that has its response: none is outstanding, and `S.step` counts it (R8, R52). -/
def countRequest (s : State) : State := { s with outstanding := none, stepIdx := s.stepIdx + 1 }

/-- A transport request with its response (R52): the sensor takes the transaction, `S.step` counts it, and a failure is
raised at the index the request had. DESIGN CHOICE (entry 26): the spec gives the transaction no instant between request
and response, and the sensor takes it here, so another master's move after the transport's `answer` and before this
turn comes before it, and none falls between the transaction and the block's seeing the response. -/
def settleTransport (q : TransportRequest) (rsp : Response) (s : State) : Issued :=
  match reply q rsp with
  | .returned bytes => .returned bytes (countRequest (transact q rsp s))
  | .busError xs => .raised (raiseOutcome .busErr xs s.stepIdx (countRequest (transact q rsp s)))
  | .noData => .raised (raiseOutcome .noData 0 s.stepIdx (countRequest (transact q rsp s)))

/-- `Issue(req)` (R52): send the request; if its response is there take it, else wait for it. -/
def issue (q : Request) (s : State) : Issued :=
  match q with
  | .transport t =>
    match s.answers with
    | [] => .waiting (send q s)
    | rsp :: rest => settleTransport t rsp { send q s with answers := rest }
  | .delay _ =>
    match s.completions with
    | 0 => .waiting (send q s)
    | n + 1 => .returned [] (countRequest { send q s with completions := n })

/-- What Configuration holds after a failed write whose rule says that some bits are unchanged (R69: `SD` after a failure
of SETMODE): those bits as they were, where they were known, and free values for the others (R88; entry 10). -/
def keptByte (a : MicroOp) (s : State) : Option Byte :=
  match a with
  | .write _ _ kept =>
    if kept = 0x00 then none
    else (s.mem.read (configCell s.addr)).map fun c => (c &&& kept) ||| (Config.freeByte s.freeCount &&& ~~~kept)
  | _ => none

/-- The state `t` that a failure of the action `a` in the state `s` leaves, with the bits that its rule keeps (R69). -/
def keepBits (a : MicroOp) (s t : State) : State :=
  match keptByte a s with
  | none => t
  | some d => { t with mem := t.mem.write (configCell s.addr) d, freeCount := t.freeCount + 1 }

/-- The run of a sequence of actions (R50 to R52): each in turn, until the end (R51), a failure, or a request whose
response is not there yet. A `READN` that fails or is short raises its outcome and leaves `RX` and `CFG_TMP` as they were,
whatever bytes came with it: DESIGN CHOICE, R13 leaves them unspecified in the block that is then IDLE (entry 5). -/
def run (f : Finish) (as : List MicroOp) (s : State) : State :=
  match as with
  | [] => completeOk (returnValue f s)
  | a :: rest =>
    match requestOf a s with
    | none => run f rest (internalEffect a s)
    | some q =>
      match issue q s with
      | .waiting s' => s'
      | .raised s' => keepBits a s s'
      | .returned bytes s' => run f rest (receive a bytes s')

/-- What is left of a sequence once its first `k` requests have completed. -/
def afterRequests (k : Nat) (as : List MicroOp) : List MicroOp :=
  match k, as with
  | 0, as => as
  | _ + 1, [] => []
  | k + 1, a :: rest => if isRequest a then afterRequests k rest else afterRequests (k + 1) rest

/-- What is left of a sequence from its next request on: the lines before it have run when the request went out. -/
def fromNextRequest (as : List MicroOp) : List MicroOp :=
  match as with
  | [] => []
  | a :: rest => if isRequest a then a :: rest else fromNextRequest rest

/-- The transport gives a response (R38). The transport answers in the order of the requests (entry 11): if a reset has
abandoned one that has no response yet, this one is its, and the block discards it (R100). -/
def takeAnswer (rsp : Response) (s : State) : State :=
  match s.lateRequests with
  | [] => { s with answers := s.answers ++ [rsp] }
  | _ :: late => { s with lateRequests := late }

/-- The delay primitive completes a delay request (R28), an abandoned one first (R100; entry 11). -/
def takeCompletion (s : State) : State :=
  match s.lateDelays with
  | 0 => { s with completions := s.completions + 1 }
  | n + 1 => { s with lateDelays := n }

/-- What the block has still to do of a command's sequence, from its position `S.step` (R8). -/
def remaining (as : List MicroOp) (s : State) : List MicroOp :=
  match s.outstanding with
  | none => afterRequests s.stepIdx.toNat as
  | some _ => fromNextRequest (afterRequests s.stepIdx.toNat as)

/-- The block's work on a command, from its position on (R50 to R52): the shared meaning of every command. -/
def runCommand (as : List MicroOp) (f : Finish) (s : State) : State :=
  run f (remaining as s) s

/-- Acceptance of a command, with the registers that R8 to R11 set when a command is accepted (R49, R50). -/
def accept (w : Word) (s : State) : State :=
  { s with cmd := w, seq := .busy, stepIdx := 0, status := 0x0000, result := 0x0000, tempf := 0x00000000 }

/-- `raise Illegal()` (R50, R87): no request, and no other effect. -/
def raiseIllegal (s : State) : State := raiseOutcome .illegal 0 0 s

/-- What a reset makes of a request that is outstanding (R100): its response is discarded, now if it is there, else when
it arrives, and what the request did or will do to the sensor is unknown. From then on no request is outstanding, and the
block may send its next one before the discarded response arrives: DESIGN CHOICE (entry 28). -/
def abandon (s : State) : State :=
  match s.outstanding with
  | none => s
  | some (.delay _) =>
    match s.completions with
    | 0 => { s with outstanding := none, lateDelays := s.lateDelays + 1 }
    | n + 1 => { s with outstanding := none, completions := n }
  | some (.transport q) =>
    match s.answers with
    | [] => { s with outstanding := none, lateRequests := s.lateRequests ++ [q], mem := forgetWritten q s.mem }
    | _ :: rest => { s with outstanding := none, answers := rest, mem := forgetWritten q s.mem }

/-- The block comes to address the sensor at `addr` (R6, R17), which holds what it held before (R101) and, where that is
not known, free values (U8; entry 9). What an abandoned write may still change stays unknown (R100). -/
def bindSensor (addr : BitVec 7) (s : State) : State :=
  { s with mem := forgetLate s.lateRequests (sensorHolds addr s.freeCount s.mem), freeCount := s.freeCount + 3 }

/-- `rst` with `addr_init` (R99, R100): the registers of R99, no request, no `done`; the pointer is UNKNOWN at
construction (R16); the sensor stays as it is (R101). -/
def applyReset (addrInit : BitVec 7) (s : State) : State :=
  { abandon (bindSensor addrInit s) with
      addr := addrInit, modeCache := .normal, seq := .idle, cmd := 0x0000, stepIdx := 0,
      status := 0x0000, result := 0x0000, tempf := 0x00000000, done := false, devPtr := .unknown }

end Sys2Proof.Machine
end

