-- ==== Sys2Proof/Machine/Configuration.lean ====
section
/-! DEFINITION. The raw configuration commands (42_config.md R63, R64). -/

namespace Sys2Proof.Machine

/-- The sequence of GETCFG (R63). -/
def getcfgSequence : List MicroOp := [.read .config, restorePtr]

/-- GETCFG (R63). -/
def execGetcfg (s : State) : Host.Outcome State Fault Refusal := .next (runCommand getcfgSequence .config s)

/-- The sequence of SETCFG (R64): the operand verbatim, and no cache write. -/
def setcfgSequence (data : Byte) : List MicroOp := [.write .config (.verbatim data) 0x00, restorePtr]

/-- SETCFG (R64). -/
def execSetcfg (data : Byte) (s : State) : Host.Outcome State Fault Refusal :=
  .next (runCommand (setcfgSequence data) .nothing s)

end Sys2Proof.Machine
end

