-- ==== Sys2Proof/Machine/Init.lean ====
section
/-! DEFINITION. The initialisation commands (41_init.md R59 to R62). -/

namespace Sys2Proof.Machine

/-- The sequence of INIT (R59): the cache is set, then `#0` and `#1`. -/
def initSequence : List MicroOp := [.cache .normal, .begin, .select .temp]

/-- INIT (R59). -/
def execInit (s : State) : Host.Outcome State Fault Refusal := .next (runCommand initSequence .nothing s)

/-- The sequence of INIT_RES (R60): the cache is set, then `#0` to `#4`. -/
def initResSequence (res : BitVec 2) : List MicroOp :=
  [.cache .normal, .begin, .read .config, .write .config (.resolution res) 0x00, restorePtr, .select .temp]

/-- INIT_RES (R60). -/
def execInitRes (res : BitVec 2) (s : State) : Host.Outcome State Fault Refusal :=
  .next (runCommand (initResSequence res) .nothing s)

/-- The sequence of INIT_RES_MODE (R61): `#0` to `#3`, the cache, then `#4` to `#7`. -/
def initResModeSequence (res : BitVec 2) (m : Mode) : List MicroOp :=
  [.begin, .read .config, .write .config (.resolution res) 0x00, restorePtr, .cache m, .read .config,
   .write .config (.mode m) 0x00, restorePtr, .select .temp]

/-- INIT_RES_MODE (R61). -/
def execInitResMode (res : BitVec 2) (m : Mode) (s : State) : Host.Outcome State Fault Refusal :=
  .next (runCommand (initResModeSequence res m) .nothing s)

end Sys2Proof.Machine
end

