-- ==== Sys2Proof/Machine/Resolution.lean ====
section
/-! DEFINITION. The resolution commands (43_resolution.md R65 to R67). -/

namespace Sys2Proof.Machine

/-- The sequence of GETRES (R65). -/
def getresSequence : List MicroOp := [.read .config, restorePtr]

/-- GETRES (R65). -/
def execGetres (s : State) : Host.Outcome State Fault Refusal := .next (runCommand getresSequence .resolution s)

/-- The sequence of SETRES (R66): a read-modify-write of bits [6:5]. -/
def setresSequence (res : BitVec 2) : List MicroOp := [.read .config, .write .config (.resolution res) 0x00, restorePtr]

/-- SETRES (R66). -/
def execSetres (res : BitVec 2) (s : State) : Host.Outcome State Fault Refusal :=
  .next (runCommand (setresSequence res) .nothing s)

end Sys2Proof.Machine
end

