-- ==== Sys2Proof/Machine/ShutdownMode.lean ====
section
/-! DEFINITION. The shutdown-mode commands (44_shutdown_mode.md R68 to R70). -/

namespace Sys2Proof.Machine

/-- The sequence of GETMODE (R68): no request. -/
def getmodeSequence : List MicroOp := []

/-- GETMODE (R68). -/
def execGetmode (s : State) : Host.Outcome State Fault Refusal := .next (runCommand getmodeSequence .mode s)

/-- The sequence of SETMODE (R69): the cache first, then a read-modify-write of bit [0], which a failure leaves
unchanged. -/
def setmodeSequence (m : Mode) : List MicroOp :=
  [.cache m, .read .config, .write .config (.mode m) 0x01, restorePtr]

/-- SETMODE (R69). -/
def execSetmode (m : Mode) (s : State) : Host.Outcome State Fault Refusal :=
  .next (runCommand (setmodeSequence m) .nothing s)

end Sys2Proof.Machine
end

