-- ==== Sys2Proof/Machine/Temperature.lean ====
section
/-! DEFINITION. The temperature command (45_temperature.md R71 to R74; its decoder is in Decoder.lean). -/

namespace Sys2Proof.Machine

/-- `OneShot()` (R72, R73). -/
def oneShotSequence : List MicroOp := [.read .config, .write .config .oneShot 0x00, .settle]

/-- The sequence of READTEMP for the value of `S.MODE_CACHE` (R71): the one-shot step in SHUTDOWN only. The command does
not write the cache, so the sequence is the same at each of its positions. -/
def readtempSequence (m : Mode) : List MicroOp :=
  match m with
  | .normal => [.burst .temp]
  | .shutdown => oneShotSequence ++ [.burst .temp]

/-- READTEMP (R71). -/
def execReadtemp (s : State) : Host.Outcome State Fault Refusal :=
  .next (runCommand (readtempSequence s.modeCache) .temperature s)

end Sys2Proof.Machine
end

