-- ==== Sys2Proof/Machine/Dispatch.lean ====
section
/-! DEFINITION. One arm for each command (R40). -/

namespace Sys2Proof.Machine

def exec (i : Instr) (s : State) : Host.Outcome State Fault Refusal :=
  match i with
  | .init => Sys2Proof.Machine.execInit s
  | .initRes res => Sys2Proof.Machine.execInitRes res s
  | .initResMode res m => Sys2Proof.Machine.execInitResMode res m s
  | .getcfg => Sys2Proof.Machine.execGetcfg s
  | .setcfg data => Sys2Proof.Machine.execSetcfg data s
  | .getres => Sys2Proof.Machine.execGetres s
  | .setres res => Sys2Proof.Machine.execSetres res s
  | .getmode => Sys2Proof.Machine.execGetmode s
  | .setmode m => Sys2Proof.Machine.execSetmode m s
  | .readtemp => Sys2Proof.Machine.execReadtemp s

end Sys2Proof.Machine
end

