-- ==== Sys2Proof/Machine/Agents.lean ====
section
/-! DEFINITION. The agents' moves (R2): the block's turn, and the moves of the host, the transport, the delay primitive, the
sensor and other bus masters. -/

namespace Sys2Proof.Machine

/-- The block starts or goes on with the command it has latched (R46, R50, R52): an illegal word raises ILLEGAL. -/
def runLatched (s : State) : Host.Outcome State Fault Refusal :=
  match decode s.cmd with
  | .ok i => exec i s
  | .rejected _ => .next (raiseIllegal s)

/-- The block's turn: IDLE, it accepts the command on its port if there is one, which is a step of its own (R49); BUSY, it
works on the latched command (R50, R52), and an offered one waits. -/
def blockTurn (s : State) : Host.Outcome State Fault Refusal :=
  match s.seq with
  | .idle =>
    match s.offers with
    | [] => .next s
    | w :: rest => .next (accept w { s with offers := rest })
  | .busy => runLatched s

/-- One move of one agent. -/
def agentMove (mv : Move) (s : State) : Host.Outcome State Fault Refusal :=
  match mv with
  | .block => blockTurn s
  | .offer w => .next { s with offers := s.offers ++ [w] }
  | .reset addrInit => .next (applyReset addrInit s)
  | .answer rsp => .next (takeAnswer rsp s)
  | .delayDone => .next (takeCompletion s)
  | .sensor cfg => .next (sensorConfig cfg s)
  | .convert w => .next (convert w s)
  | .other q rsp => .next (transactOther q rsp s)

/-- The next move of the machine: the first one listed in `agenda`, else the block's. The `done` pulse of the step before
ends (R51), whichever agent moves: DESIGN CHOICE (entry 13). -/
def nextMove (s : State) : Host.Outcome State Fault Refusal :=
  match s.agenda with
  | [] => blockTurn { s with done := false }
  | mv :: rest => agentMove mv { s with done := false, agenda := rest }

/-- The block right after it has accepted `w` (R49), no request sent, its turn next. -/
def acceptedNext (w : Word) (s : State) : State :=
  accept w { s with agenda := .block :: s.agenda, outstanding := none }

end Sys2Proof.Machine
end

