-- ==== Sys2Proof/Machine/Step.lean ====
section
/-! DEFINITION. One step of the machine: one move of one agent (R2). -/

namespace Sys2Proof.Machine

/-- One step: the next move of the schedule that `agenda` holds (R2). -/
def step (s : State) : Host.Outcome State Fault Refusal := nextMove s

/-- `s` with the word `w` in the command latch of a block that has just accepted it and whose turn is next: the very next
step decodes and runs it (R49, R50; entry 3). -/
def State.withFetchWord (s : State) (nbits w : Nat) : State := acceptedNext (BitVec.ofNat 16 (w % 2 ^ nbits)) s

end Sys2Proof.Machine
end

