-- ==== Sys2Proof/Safety.lean ====
section
/-! DEFINITION. The terms the statements use: the state right after acceptance, the state right after completion, the
sequence of each command, the invariant of the machine, and the weakly fair runs. -/

namespace Sys2Proof.Machine

/-- A block that has accepted a command (R49, R50) and has issued none of its requests. -/
abbrev Ready (s : State) : Prop :=
  s.seq = .busy ∧ s.stepIdx = 0 ∧ s.outstanding = none ∧ s.status = 0x0000 ∧ s.result = 0x0000 ∧ s.tempf = 0x00000000

/-- `s` after a command that issued `requests`, the last of them answered, leaving `rest` of the transport's responses:
IDLE, `done` raised, the requests counted. Every other field is as in `s`. -/
def finished (requests : List Request) (rest : List Response) (s : State) : State :=
  { s with seq := .idle, done := true, outstanding := none,
           stepIdx := s.stepIdx + BitVec.ofNat 4 requests.length, sent := s.sent ++ requests, answers := rest }

/-- A response that the transport gives with status 0 (R29). -/
abbrev Good (rsp : Response) : Prop := rsp.xstatus = 0

/-- A response with status 0 and at least one byte, `c` the first (R29). -/
abbrev GoodByte (rsp : Response) (c : Byte) : Prop := rsp.xstatus = 0 ∧ rsp.bytes.head? = some c

/-- The outcome in STATUS (R84). -/
abbrev HasCode (s : State) (code : OutcomeCode) : Prop := statusCode s.status = code.bits

/-- The sequence of actions of each command, for the value of `S.MODE_CACHE` (R59 to R71). -/
def sequenceOf (i : Instr) (m : Mode) : List MicroOp :=
  match i with
  | .init => initSequence
  | .initRes res => initResSequence res
  | .initResMode res m' => initResModeSequence res m'
  | .getcfg => getcfgSequence
  | .setcfg data => setcfgSequence data
  | .getres => getresSequence
  | .setres res => setresSequence res
  | .getmode => getmodeSequence
  | .setmode m' => setmodeSequence m'
  | .readtemp => readtempSequence m

/-- What each command returns (R10, R11). -/
def finishOf (i : Instr) : Finish :=
  match i with
  | .getcfg => .config
  | .getres => .resolution
  | .getmode => .mode
  | .readtemp => .temperature
  | .init => .nothing
  | .initRes _ => .nothing
  | .initResMode _ _ => .nothing
  | .setcfg _ => .nothing
  | .setres _ => .nothing
  | .setmode _ => .nothing

/-- The commands that write `S.MODE_CACHE` (R7). -/
def writesCache (i : Instr) : Bool :=
  match i with
  | .init => true
  | .initRes _ => true
  | .initResMode _ _ => true
  | .setmode _ => true
  | .getcfg => false
  | .setcfg _ => false
  | .getres => false
  | .setres _ => false
  | .getmode => false
  | .readtemp => false

/-- The request that the block has outstanding at its position `S.step` in command `i` (R8). -/
def requestAt (i : Instr) (s : State) : Option Request :=
  match fromNextRequest (afterRequests s.stepIdx.toNat (sequenceOf i s.modeCache)) with
  | [] => none
  | a :: _ => requestOf a s

/-- The form of STATUS that R9 and R84 give each outcome: the reserved bit is 0; CODE is at most 3; XCODE is not 0 exactly
for BUS_ERR; STEP is 0 for OK and ILLEGAL. -/
abbrev StatusWellFormed (w : Word) : Prop :=
  statusReserved w = 0 ∧ statusCode w ≤ 3 ∧ (statusXcode w ≠ 0 ↔ statusCode w = OutcomeCode.busErr.bits) ∧
    (statusCode w = OutcomeCode.ok.bits → statusStep w = 0) ∧ (statusCode w = OutcomeCode.illegal.bits → statusStep w = 0)

/-- The response registers of a BUSY block hold the zeros of R50, and it has just accepted its command, or is inside a
legal command, the request outstanding being the one at its position in the command's sequence, sent last (R8, R33, R49,
R50). -/
def BusyOk (s : State) : Prop :=
  s.status = 0x0000 ∧ s.result = 0x0000 ∧ s.tempf = 0x00000000 ∧
    ((s.outstanding = none ∧ s.stepIdx = 0) ∨
      ∃ i q, decode s.cmd = .ok i ∧ s.outstanding = some q ∧ requestAt i s = some q ∧ s.sent.getLast? = some q)

/-- The invariant of the machine. -/
structure MachineInv (s : State) : Prop where
  /-- the memory is in canonical form -/
  memory : s.mem.wf = true
  /-- `RX` holds at most two bytes (R13) -/
  received : s.rx.length ≤ 2
  /-- STATUS has the form of R9 and R84 -/
  status : StatusWellFormed s.status
  /-- only OK comes with a value (R10, R11, R51) -/
  noValue : statusCode s.status ≠ OutcomeCode.ok.bits → s.result = 0x0000 ∧ s.tempf = 0x00000000
  /-- an IDLE block has no request outstanding (R33) -/
  idle : s.seq = .idle → s.outstanding = none
  /-- `done` is raised only by a completion, which leaves the block IDLE (R51) -/
  pulse : s.done = true → s.seq = .idle
  /-- a BUSY block has just accepted, or waits for the request at its position (R8, R49, R52) -/
  busy : s.seq = .busy → BusyOk s
  /-- while a response is owed to an abandoned request, no later one is there (R100; entry 11) -/
  lateAnswers : s.lateRequests = [] ∨ s.answers = []
  /-- the same of the delay primitive -/
  lateCompletions : s.lateDelays = 0 ∨ s.completions = 0
  /-- while an abandoned request may still move the pointer of the block's sensor, it is unknown (R100) -/
  latePointer : pointerInDoubt s = true → s.devPtr = .unknown
  /-- while an abandoned write may still reach Configuration, what it holds is unknown (R100) -/
  lateConfig : ∀ q ∈ s.lateRequests, q.kind = .write1 → q.ptr = Config.ptrConfig → s.mem.read (configCell q.addr) = none

/-- A run `r` of the machine with what its environment adds to the schedule: before each step, the agents around the block
may line up moves after those already listed (R2). This is the model's observation of a run (R111). -/
def IsRun (r : Nat → State) (env : Nat → List Move) : Prop :=
  ∀ n, step { r n with agenda := (r n).agenda ++ env n } = .next (r (n + 1))

/-- Whether a response to the request is there (R38). -/
def Answered (q : Request) (s : State) : Prop :=
  match q with
  | .transport _ => s.answers ≠ []
  | .delay _ => s.completions ≠ 0

/-- The weak fairness that R111 assumes of the agents: the block's turn comes again and again, and every outstanding
request is eventually answered, unless it is no longer outstanding. The machine does not have it built in, and without it
a command may hang (entry 15). -/
structure WeaklyFair (r : Nat → State) (env : Nat → List Move) : Prop where
  /-- the block moves again and again -/
  turns : ∀ n, ∃ m, n ≤ m ∧ ((r m).agenda ++ env m = [] ∨ ((r m).agenda ++ env m).head? = some .block)
  /-- every outstanding request is eventually answered -/
  answers : ∀ n q, (r n).outstanding = some q → ∃ m, n ≤ m ∧ (Answered q (r m) ∨ (r m).outstanding ≠ some q)

/-- The rational value of a finite binary32 bit pattern (IEEE 754; R81). -/
def f32Value (b : BitVec 32) : ℚ :=
  let e := (b.extractLsb' 23 8).toNat
  let f := (b.extractLsb' 0 23).toNat
  let m : ℚ := if e = 0 then (f : ℚ) * 2 ^ (-149 : ℤ) else ((2 ^ 23 + f : ℕ) : ℚ) * 2 ^ ((e : ℤ) - 150)
  if b.msb then -m else m

/-- A finite binary32 bit pattern: its exponent field is not all ones. -/
abbrev F32Finite (b : BitVec 32) : Prop := b.extractLsb' 23 8 ≠ 0xFF

/-- Celsius of a temperature `T16` (R78). -/
def celsius (d : CDiv) (t16 : Word) : ℚ :=
  match d with
  | .exact => (t16.toInt : ℚ) / 16
  | .trunc => (t16.toInt.tdiv 16 : ℚ)

/-- Fahrenheit of a temperature `T16`, `9/5 · C + 32` (R80). -/
def fahrenheit (d : CDiv) (t16 : Word) : ℚ := 9 / 5 * celsius d t16 + 32

end Sys2Proof.Machine
end

