-- ==== Sys2Proof/Certificates/Slice0/Obligations.lean ====
section
/-! DEFINITION. The statements about the machine, from the numbered rules of spec/. -/

open Sys2Proof Sys2Proof.Machine

/-! ### Encoding (30_encoding.md) -/

/-- R39 to R47: the decoder reads back every command from its word, with every operand at every value. -/
def Obligations.DecodeReadsBackEveryEncoding : Prop :=
  ∀ i : Instr, decode (encode i) = .ok i

/-- R44, R46: a word that decodes is the word of the command it decodes to; no bit of it is ignored. -/
def Obligations.DecodedWordIsTheEncoding : Prop :=
  ∀ (w : Word) (i : Instr), decode w = .ok i → encode i = w

/-- R46: a word is legal exactly when it decodes; a row that is the word's carries the command's mnemonic, and two rows
that are the word's are one row. -/
def Obligations.LegalWordsAreTheTableRows : Prop :=
  ∀ w : Word,
    (legal w = true ↔ ∃ i, decode w = .ok i) ∧
    (∀ i r, decode w = .ok i → r ∈ opcodeRows → w &&& r.mask = r.pattern → r.mnemonic = i.mnemonic) ∧
    (∀ r ∈ opcodeRows, ∀ r' ∈ opcodeRows, w &&& r.mask = r.pattern → w &&& r'.mask = r'.pattern → r = r')

/-- R46: 279 of the 65536 words are legal. -/
def Obligations.LegalWordCount : Prop :=
  ((List.range 65536).countP fun n => legal (BitVec.ofNat 16 n)) = 279

/-- R45: every word with the opcode 0x0 or 0xB to 0xF is illegal, whatever its other bits. -/
def Obligations.ReservedOpcodesAreIllegal : Prop :=
  ∀ w : Word, w.extractLsb' 12 4 = 0x0 ∨ 0xB ≤ w.extractLsb' 12 4 →
    legal w = false ∧ decode w = .rejected (.reservedOpcode (w.extractLsb' 12 4))

/-- R44, the table: for each opcode, a word with that opcode is legal exactly when the bits its command does not use are
all 0. -/
def Obligations.UnusedBitsMustBeZero : Prop :=
  ∀ p ∈ ([(0x1, 0x0FFF), (0x2, 0x0CFF), (0x3, 0x0CFE), (0x4, 0x0FFF), (0x5, 0x0F00), (0x6, 0x0FFF), (0x7, 0x0CFF),
      (0x8, 0x0FFF), (0x9, 0x0FFE), (0xA, 0x0FFF)] : List (BitVec 4 × Word)),
    ∀ w : Word, w.extractLsb' 12 4 = p.1 → (legal w = true ↔ w &&& p.2 = 0)

/-- R47: the words of the assembler lines, and the operands an assembler refuses. -/
def Obligations.AssemblerWords : Prop :=
  assemble .init = some 0x1000 ∧ assemble .getcfg = some 0x4000 ∧ assemble .getres = some 0x6000 ∧
  assemble .getmode = some 0x8000 ∧ assemble .readtemp = some 0xA000 ∧
  (∀ m, assemble (.setmode m) = some (0x9000 ||| m.bit.setWidth 16)) ∧
  (∀ n, n ≤ 0xFF → assemble (.setcfg n) = some (0x5000 ||| BitVec.ofNat 16 n)) ∧
  (∀ n, 0xFF < n → assemble (.setcfg n) = none) ∧
  (∀ res m, 9 ≤ res → res ≤ 12 →
    assemble (.initRes res) = some (0x2000 ||| BitVec.ofNat 16 ((res - 9) <<< 8)) ∧
    assemble (.initResMode res m) = some (0x3000 ||| BitVec.ofNat 16 ((res - 9) <<< 8) ||| m.bit.setWidth 16) ∧
    assemble (.setres res) = some (0x7000 ||| BitVec.ofNat 16 ((res - 9) <<< 8))) ∧
  (∀ res m, res < 9 ∨ 12 < res →
    assemble (.initRes res) = none ∧ assemble (.initResMode res m) = none ∧ assemble (.setres res) = none)

/-- R39 to R43: one word of each command, written out from the diagram of R39, decodes to it. -/
def Obligations.WordsOfTheSpecDecode : Prop :=
  decode 0b0001_00_00_00000000 = .ok .init ∧
  decode 0b0010_00_11_00000000 = .ok (.initRes 3) ∧
  decode 0b0011_00_10_00000001 = .ok (.initResMode 2 .shutdown) ∧
  decode 0b0100_00_00_00000000 = .ok .getcfg ∧
  decode 0b0101_00_00_01100000 = .ok (.setcfg 0x60) ∧
  decode 0b0110_00_00_00000000 = .ok .getres ∧
  decode 0b0111_00_01_00000000 = .ok (.setres 1) ∧
  decode 0b1000_00_00_00000000 = .ok .getmode ∧
  decode 0b1001_00_00_00000001 = .ok (.setmode .shutdown) ∧
  decode 0b1010_00_00_00000000 = .ok .readtemp

/-! ### The command frame (40_register_access.md) -/

/-- R49, R50: an IDLE block whose turn it is accepts the word on its port, and does nothing else in that step: it latches
the word, is BUSY, and its registers are cleared. That the clearing belongs to the step of acceptance (entry 1), that the
pulse of `done` ends (entry 13) and that the word leaves the port (entry 14) are the model's. R49, R51, R90, R104: with no
word on its port its turn changes nothing but that the pulse of `done` ends. A word that the host offers, IDLE or BUSY as
the block is, comes after those it has offered before, none of them lost, and nothing else changes but `done` (entry 13):
the form of the port is entry 14's. -/
def Obligations.StepAcceptsTheOfferedWord : Prop :=
  (∀ (s : State) (w : Word) (rest : List Word), s.seq = .idle → s.offers = w :: rest →
    (s.agenda = [] →
      step s = .next { s with done := false, offers := rest, cmd := w, seq := .busy, stepIdx := 0,
                              status := 0x0000, result := 0x0000, tempf := 0x00000000 }) ∧
    (∀ later, s.agenda = .block :: later →
      step s = .next { s with done := false, agenda := later, offers := rest, cmd := w, seq := .busy, stepIdx := 0,
                              status := 0x0000, result := 0x0000, tempf := 0x00000000 })) ∧
  (∀ s : State, s.seq = .idle → s.offers = [] →
    (s.agenda = [] → step s = .next { s with done := false }) ∧
    (∀ later, s.agenda = .block :: later → step s = .next { s with done := false, agenda := later })) ∧
  (∀ (s : State) (w : Word) (later : List Move), s.agenda = .offer w :: later →
    step s = .next { s with done := false, agenda := later, offers := s.offers ++ [w] })

/-- R46, R50, R52: a BUSY block whose turn it is starts, or goes on with, the command of the word it has latched. How far
one turn takes it is the model's choice (entry 1), and the pulse that ends is entry 13's. -/
def Obligations.StepRunsTheLatchedCommand : Prop :=
  ∀ (s : State) (i : Instr), s.seq = .busy → decode s.cmd = .ok i →
    (s.agenda = [] → step s = exec i { s with done := false }) ∧
    (∀ later, s.agenda = .block :: later → step s = exec i { s with done := false, agenda := later })

/-- R87, with R50, R51 and R88: the turn after a block has accepted an illegal word ends the command with ILLEGAL, XCODE 0
and STEP 0, before any request and before any write to the mode cache; nothing but STATUS, `S.state` and `done` changes. -/
def Obligations.IllegalWordCompletesIllegal : Prop :=
  ∀ s : State, Ready s → legal s.cmd = false →
    (s.agenda = [] → step s = .next { s with done := true, seq := .idle, status := 0x0003 }) ∧
    (∀ later, s.agenda = .block :: later →
      step s = .next { s with agenda := later, done := true, seq := .idle, status := 0x0003 })

/-- R49: while the block is BUSY its step accepts no command: what is offered stays offered, and the latch is kept. -/
def Obligations.OfferWaitsWhileBusy : Prop :=
  ∀ s t : State, s.seq = .busy → (s.agenda = [] ∨ ∃ later, s.agenda = .block :: later) →
    step s = .next t → t.offers = s.offers ∧ t.cmd = s.cmd

/-- R111: a transport or a delay primitive that never answers leaves the block BUSY for ever: the step changes nothing (entry 15). -/
def Obligations.SilenceHangsTheBlock : Prop :=
  ∀ (s : State) (q : Request), MachineInv s → s.seq = .busy → s.agenda = [] → s.outstanding = some q →
    (match q with | .transport _ => s.answers = [] | .delay _ => s.completions = 0) →
    step s = .next s

/-- R33, R52: enough responses complete every command: eight of the transport and one of the delay primitive. R111: in
every run in which the block's turn comes again and again and every outstanding request is eventually answered, every
command completes, or a reset ends it: the block is IDLE again. -/
def Obligations.AnsweredCommandCompletes : Prop :=
  (∀ (i : Instr) (s : State), Ready s → 8 ≤ s.answers.length → 1 ≤ s.completions →
    ∃ t, exec i s = .next t ∧ t.seq = .idle ∧ t.done = true ∧ t.outstanding = none) ∧
  (∀ (r : Nat → State) (env : Nat → List Move) (n : Nat), IsRun r env → WeaklyFair r env → MachineInv (r 0) →
    (r n).seq = .busy → ∃ m, n ≤ m ∧ (r m).seq = .idle)

/-- R33, R52: it makes no difference whether the responses are all there or come in parts: a command that had to wait and
gets more goes on as it would have, had it had them from the start. R28, R38: with none owed to an abandoned request, a
response or a completion that arrives is there for the block, after those that are there, and nothing else changes but
`done`; that one may arrive at any time is the model's choice (entry 2). That another agent's move ends the pulse of
`done` is the model's choice (entry 13). -/
def Obligations.ResponsesMayComeInParts : Prop :=
  (∀ (i : Instr) (s t : State) (more : List Response) (n : Nat),
    s.seq = .busy → (Ready s ∨ (MachineInv s ∧ decode s.cmd = .ok i)) →
    exec i s = .next t → t.seq = .busy →
    exec i { s with answers := s.answers ++ more, completions := s.completions + n } =
      exec i { t with answers := t.answers ++ more, completions := t.completions + n }) ∧
  (∀ (s : State) (rsp : Response) (later : List Move), s.agenda = .answer rsp :: later → s.lateRequests = [] →
    step s = .next { s with done := false, agenda := later, answers := s.answers ++ [rsp] }) ∧
  (∀ (s : State) (later : List Move), s.agenda = .delayDone :: later → s.lateDelays = 0 →
    step s = .next { s with done := false, agenda := later, completions := s.completions + 1 })

/-! ### Requests, transactions and outcomes (20_memory.md, 60_exceptions.md) -/

/-- R37: the fields of the block's requests. -/
def Obligations.RequestRecords : Prop :=
  beginRequest = .transport { kind := .begin, addr := 0, ptr := 0, data := 0, count := 0 } ∧
  (∀ (a : BitVec 7) (r : Reg),
    setPtrRequest a r = .transport { kind := .setPtr, addr := a, ptr := r.code, data := 0, count := 0 } ∧
    (∀ v, writeRequest a r v = .transport { kind := .write1, addr := a, ptr := r.code, data := v, count := 0 }) ∧
    (∀ n, readRequest a r n = .transport { kind := .readN, addr := a, ptr := r.code, data := 0, count := n })) ∧
  settleRequest = .delay 350 ∧
  Kind.begin.code = 0 ∧ Kind.setPtr.code = 1 ∧ Kind.write1.code = 2 ∧ Kind.readN.code = 3 ∧
  Reg.temp.code = 0x00 ∧ Reg.config.code = 0x01 ∧ Reg.tlow.code = 0x02 ∧ Reg.thigh.code = 0x03

/-- R52, with R29, R85, R86 and R89: what a response makes of a transport request. -/
def Obligations.RepliesOfTheTransport : Prop :=
  ∀ (q : TransportRequest) (rsp : Response),
    (q.kind = .begin → reply q rsp = .returned []) ∧
    (q.kind ≠ .begin → rsp.xstatus ≠ 0 → reply q rsp = .busError rsp.xstatus) ∧
    (q.kind = .setPtr ∨ q.kind = .write1 → rsp.xstatus = 0 → reply q rsp = .returned []) ∧
    (q.kind = .readN → rsp.xstatus = 0 → rsp.bytes.length < q.count.toNat → reply q rsp = .noData) ∧
    (q.kind = .readN → rsp.xstatus = 0 → q.count.toNat ≤ rsp.bytes.length →
      reply q rsp = .returned (rsp.bytes.take q.count.toNat))

/-- R9, R84: the fields of STATUS that an outcome writes. -/
def Obligations.StatusFields : Prop :=
  ∀ (xcode : Byte) (k : BitVec 4) (code : OutcomeCode),
    (statusWord xcode k code).extractLsb' 0 3 = code.bits ∧
    (statusWord xcode k code).extractLsb' 3 1 = 0 ∧
    (statusWord xcode k code).extractLsb' 4 4 = k ∧
    (statusWord xcode k code).extractLsb' 8 8 = xcode ∧
    OutcomeCode.ok.bits = 0 ∧ OutcomeCode.busErr.bits = 1 ∧ OutcomeCode.noData.bits = 2 ∧ OutcomeCode.illegal.bits = 3

/-- R52, R85, R86, R88: a request that fails, or a read that is short, ends the command with its outcome: STATUS holds the
transport's status (or 0), the index of the request and the code, the block is IDLE and raises `done`, the pointer is
unknown, and nothing else of the block changes. That `S.step` counts the failed request (entry 21), and that a write which
failed leaves Configuration unknown (entry 10), are the model's. That Temperature outlives a write of Configuration is the
model's choice (entry 27). That `RX` and `CFG_TMP` take nothing from a read that fails or is short is the model's choice
(entry 5). -/
def Obligations.FailedRequestIsRecorded : Prop :=
  ∀ (q : TransportRequest) (rsp : Response) (rest : List Response) (s : State),
    s.outstanding = none → s.answers = rsp :: rest → q.addr = s.addr → q.kind ≠ .begin →
    (rsp.xstatus ≠ 0 →
      issue (.transport q) s = .raised { s with
        sent := s.sent ++ [.transport q], answers := rest, stepIdx := s.stepIdx + 1, devPtr := .unknown,
        mem := memoryAfter q rsp s.mem,
        status := rsp.xstatus ++ s.stepIdx ++ (1 : BitVec 4), seq := .idle, done := true }) ∧
    (q.kind = .readN → rsp.xstatus = 0 → rsp.bytes.length < q.count.toNat →
      issue (.transport q) s = .raised { s with
        sent := s.sent ++ [.transport q], answers := rest, stepIdx := s.stepIdx + 1, devPtr := .unknown,
        status := (0 : Byte) ++ s.stepIdx ++ (2 : BitVec 4), seq := .idle, done := true })

/-- R16, R33, R106: what a transaction leaves in the sensor's pointer, of the block (its BEGIN, whose record names no
sensor, leaves it as it is) or, with none abandoned, of another master (entry 12), whose step changes nothing else but the
sensor's registers and `done`. That one at another address leaves the pointer, and that one with a pointer byte of no
register makes it unknown, is the model's reading (entry 8). That another agent's move ends the pulse of `done` is the
model's choice (entry 13). -/
def Obligations.TransactionMovesThePointer : Prop :=
  (∀ (q : TransportRequest) (rsp : Response) (s : State), q.kind = .begin → (transact q rsp s).devPtr = s.devPtr) ∧
  (∀ (r : Reg) (q : TransportRequest) (rsp : Response) (s : State),
    q.ptr = r.code → q.addr = s.addr →
    (q.kind ≠ .begin → rsp.xstatus = 0 → (q.kind = .readN → q.count.toNat ≤ rsp.bytes.length) →
      (transact q rsp s).devPtr = .known r) ∧
    (q.kind ≠ .begin → rsp.xstatus ≠ 0 → (transact q rsp s).devPtr = .unknown) ∧
    (q.kind = .readN → rsp.xstatus = 0 → rsp.bytes.length < q.count.toNat → (transact q rsp s).devPtr = .unknown)) ∧
  (∀ (q : TransportRequest) (rsp : Response) (s : State) (later : List Move),
    s.agenda = .other q rsp :: later → s.lateRequests = [] →
    ∃ t, step s = .next t ∧ t = { s with done := false, agenda := later, devPtr := t.devPtr, mem := t.mem } ∧
      (q.kind = .begin ∨ q.addr ≠ s.addr → t.devPtr = s.devPtr) ∧
      (q.kind ≠ .begin → q.addr = s.addr →
        (∀ r : Reg, q.ptr = r.code → rsp.xstatus = 0 → (q.kind = .readN → q.count.toNat ≤ rsp.bytes.length) →
          t.devPtr = .known r) ∧
        ((∀ r : Reg, q.ptr ≠ r.code) → t.devPtr = .unknown) ∧
        (rsp.xstatus ≠ 0 → t.devPtr = .unknown) ∧
        (q.kind = .readN → rsp.bytes.length < q.count.toNat → t.devPtr = .unknown)))

/-- R26, R32, and R88 for a failure: after a write to Configuration with status 0 the register holds the byte; after one
that failed its content is not known (entry 10); no other transaction of the block changes what is known, nor any other
byte. R33, R106: with none abandoned, another master's transaction does the same (entry 12), but that one which writes
Temperature makes it unknown (U17); one with a pointer byte of no register keeps every byte (entry 29). U8, R23: the
sensor sets its own Temperature, the high byte first, and, with none abandoned, its own Configuration, and nothing else
changes but `done` (entry 12). That Temperature outlives a write of Configuration is the model's choice (entry 27). That
another agent's move ends the pulse of `done` is the model's choice (entry 13). -/
def Obligations.TransactionWritesConfiguration : Prop :=
  (∀ (q : TransportRequest) (rsp : Response) (s : State), s.mem.wf = true →
    (q.kind = .write1 → q.ptr = Reg.config.code → rsp.xstatus = 0 →
      (transact q rsp s).mem.read (configCell q.addr) = some q.data) ∧
    (q.kind = .write1 → q.ptr = Reg.config.code → rsp.xstatus ≠ 0 →
      (transact q rsp s).mem.read (configCell q.addr) = none) ∧
    (q.kind ≠ .write1 → (transact q rsp s).mem = s.mem) ∧
    (q.kind = .write1 → q.ptr ≠ Reg.config.code → (transact q rsp s).mem = s.mem) ∧
    (∀ a, a ≠ configCell q.addr → (transact q rsp s).mem.read a = s.mem.read a) ∧
    (transact q rsp s).mem.wf = true) ∧
  (∀ (q : TransportRequest) (rsp : Response) (s : State) (later : List Move),
    s.mem.wf = true → s.agenda = .other q rsp :: later → s.lateRequests = [] →
    ∃ t, step s = .next t ∧ t.mem.wf = true ∧
      (q.kind = .write1 → q.ptr = Reg.config.code →
        t.mem.read (configCell q.addr) = (if rsp.xstatus = 0 then some q.data else none) ∧
        ∀ a, a ≠ configCell q.addr → t.mem.read a = s.mem.read a) ∧
      (q.kind = .write1 → q.ptr = Reg.temp.code →
        t.mem.read (tempCell q.addr 0) = none ∧ t.mem.read (tempCell q.addr 1) = none ∧
        ∀ a, a ≠ tempCell q.addr 0 → a ≠ tempCell q.addr 1 → t.mem.read a = s.mem.read a) ∧
      (q.kind ≠ .write1 ∨ (q.ptr ≠ Reg.config.code ∧ q.ptr ≠ Reg.temp.code) → t.mem = s.mem)) ∧
  (∀ (cfg : Byte) (s : State) (later : List Move), s.agenda = .sensor cfg :: later → s.lateRequests = [] →
    ∃ t, step s = .next t ∧ t = { s with done := false, agenda := later, mem := t.mem } ∧
      t.mem.read (configCell s.addr) = some cfg ∧ (∀ a, a ≠ configCell s.addr → t.mem.read a = s.mem.read a)) ∧
  (∀ (w : Word) (s : State) (later : List Move), s.agenda = .convert w :: later →
    ∃ t, step s = .next t ∧ t = { s with done := false, agenda := later, mem := t.mem } ∧
      t.mem.read (tempCell s.addr 0) = some (w.extractLsb' 8 8) ∧
      t.mem.read (tempCell s.addr 1) = some (w.extractLsb' 0 8) ∧
      (∀ a, a ≠ tempCell s.addr 0 → a ≠ tempCell s.addr 1 → t.mem.read a = s.mem.read a))

/-- R84: a command that ends has exactly one of the outcomes: OK with STATUS 0, BUS_ERR with a status that is not 0, or
NO_DATA; INIT and SETCFG, which read nothing, never end with NO_DATA, and GETMODE always ends with OK. -/
def Obligations.OutcomesOfACommand : Prop :=
  ∀ (i : Instr) (s t : State), Ready s → exec i s = .next t → t.seq = .idle →
    (t.status = 0x0000 ∨ (HasCode t .busErr ∧ statusXcode t.status ≠ 0) ∨ (HasCode t .noData ∧ statusXcode t.status = 0)) ∧
    (i = .init ∨ (∃ d, i = .setcfg d) → ¬ HasCode t .noData) ∧
    (i = .getmode → t.status = 0x0000)

/-- R51, R83, R88: a command that ends with a failure returns no value. -/
def Obligations.FailedCommandReturnsNoValue : Prop :=
  ∀ (i : Instr) (s t : State), Ready s → exec i s = .next t → t.seq = .idle → t.status ≠ 0x0000 →
    t.result = 0x0000 ∧ t.tempf = 0x00000000

/-- R88, R89: STEP is the index of the request that failed. That request was sent last, the response taken last is the one
that failed it, XCODE is its status, the pointer is unknown, and no request follows. R52: `S.step` counts the failed request;
that it keeps that value in the IDLE block is the model's reading (entry 21). -/
def Obligations.StatusNamesTheFailedRequest : Prop :=
  ∀ (i : Instr) (s t : State), Ready s → exec i s = .next t → t.seq = .idle → t.status ≠ 0x0000 →
    ∃ (before : List Request) (q : TransportRequest) (used : List Response) (rsp : Response),
      t.sent = s.sent ++ before ++ [.transport q] ∧
      before.length = (statusStep t.status).toNat ∧
      t.stepIdx.toNat = before.length + 1 ∧
      s.answers = used ++ rsp :: t.answers ∧
      (reply q rsp = .busError (statusXcode t.status) ∨ (reply q rsp = .noData ∧ statusXcode t.status = 0)) ∧
      t.devPtr = .unknown

/-! ### Initialisation (41_init.md) -/

/-- R59: INIT. -/
def Obligations.InitCompletes : Prop :=
  ∀ (s : State) (r0 r1 : Response) (rest : List Response),
    Ready s → s.answers = r0 :: r1 :: rest → Good r1 →
    exec .init s = .next { finished [beginRequest, setPtrRequest s.addr .temp] rest s with
      modeCache := .normal, devPtr := .known .temp }

/-- R60: INIT_RES. Configuration gets the resolution code in bits [6:5], every other bit as read; the cache is NORMAL.
That the temporaries keep their last value in the IDLE block is the model's choice (entry 5). That Temperature outlives a
write of Configuration is the model's choice (entry 27). -/
def Obligations.InitResCompletes : Prop :=
  ∀ (s : State) (res : BitVec 2) (c : Byte) (r0 r1 r2 r3 r4 : Response) (rest : List Response),
    Ready s → s.answers = r0 :: r1 :: r2 :: r3 :: r4 :: rest → GoodByte r1 c → Good r2 → Good r3 → Good r4 →
    let v := (c &&& 0x9F) ||| (res.setWidth 8 <<< 5)
    exec (.initRes res) s = .next { finished
        [beginRequest, readRequest s.addr .config 1, writeRequest s.addr .config v, setPtrRequest s.addr .temp,
          setPtrRequest s.addr .temp] rest s with
      modeCache := .normal, devPtr := .known .temp, cfgTmp := c, rx := [c], mem := s.mem.write (configCell s.addr) v }

/-- R61: INIT_RES_MODE. The byte `c'` of the second read, not the byte first written, is what the mode step edits. That
the temporaries keep their last value in the IDLE block is the model's choice (entry 5). That Temperature outlives a write
of Configuration is the model's choice (entry 27). -/
def Obligations.InitResModeCompletes : Prop :=
  ∀ (s : State) (res : BitVec 2) (m : Mode) (c c' : Byte) (r0 r1 r2 r3 r4 r5 r6 r7 : Response) (rest : List Response),
    Ready s → s.answers = r0 :: r1 :: r2 :: r3 :: r4 :: r5 :: r6 :: r7 :: rest →
    GoodByte r1 c → Good r2 → Good r3 → GoodByte r4 c' → Good r5 → Good r6 → Good r7 →
    let v := (c &&& 0x9F) ||| (res.setWidth 8 <<< 5)
    let v' := (c' &&& 0xFE) ||| m.bit.setWidth 8
    exec (.initResMode res m) s = .next { finished
        [beginRequest, readRequest s.addr .config 1, writeRequest s.addr .config v, setPtrRequest s.addr .temp,
          readRequest s.addr .config 1, writeRequest s.addr .config v', setPtrRequest s.addr .temp,
          setPtrRequest s.addr .temp] rest s with
      modeCache := m, devPtr := .known .temp, cfgTmp := c', rx := [c'],
      mem := (s.mem.write (configCell s.addr) v).write (configCell s.addr) v' }

/-- R59, R60: INIT and INIT_RES leave the cache NORMAL, whether they complete, fail or still wait. R61: a failure of
INIT_RES_MODE at STEP 1 to 3 leaves the cache as it was, one at STEP 4 to 7 leaves it `M`; a command that waits has written
it exactly when its first four requests are done. -/
def Obligations.InitCommandsWriteTheCache : Prop :=
  (∀ s t : State, Ready s → exec .init s = .next t → t.modeCache = .normal) ∧
  (∀ (s t : State) (res : BitVec 2), Ready s → exec (.initRes res) s = .next t → t.modeCache = .normal) ∧
  (∀ (s t : State) (res : BitVec 2) (m : Mode), Ready s → exec (.initResMode res m) s = .next t →
    (t.seq = .idle → t.status ≠ 0x0000 →
      t.modeCache = if (statusStep t.status).toNat ≤ 3 then s.modeCache else m) ∧
    (t.seq = .busy → t.modeCache = if t.stepIdx.toNat ≤ 3 then s.modeCache else m))

/-! ### Raw configuration and resolution (42_config.md, 43_resolution.md) -/

/-- R63: GETCFG. That the temporaries keep their last value in the IDLE block is the model's choice (entry 5). -/
def Obligations.GetcfgCompletes : Prop :=
  ∀ (s : State) (c : Byte) (r0 r1 : Response) (rest : List Response),
    Ready s → s.answers = r0 :: r1 :: rest → GoodByte r0 c → Good r1 →
    exec .getcfg s = .next { finished [readRequest s.addr .config 1, setPtrRequest s.addr .temp] rest s with
      devPtr := .known .temp, cfgTmp := c, rx := [c], result := c.setWidth 16 }

/-- R63: a byte read at `#0` is not returned when the pointer's restoring at `#1` fails. That the temporaries
keep their last value in the IDLE block is the model's choice (entry 5). -/
def Obligations.GetcfgReturnsNothingIfRestoreFails : Prop :=
  ∀ (s : State) (c : Byte) (r0 r1 : Response) (rest : List Response),
    Ready s → s.answers = r0 :: r1 :: rest → GoodByte r0 c → ¬ Good r1 →
    exec .getcfg s = .next { finished [readRequest s.addr .config 1, setPtrRequest s.addr .temp] rest s with
      devPtr := .unknown, cfgTmp := c, rx := [c], status := statusWord r1.xstatus 1 .busErr }

/-- R64: SETCFG writes its operand verbatim, and leaves the mode cache. That Temperature outlives a write of Configuration
is the model's choice (entry 27). -/
def Obligations.SetcfgCompletes : Prop :=
  ∀ (s : State) (data : Byte) (r0 r1 : Response) (rest : List Response),
    Ready s → s.answers = r0 :: r1 :: rest → Good r0 → Good r1 →
    exec (.setcfg data) s = .next
      { finished [writeRequest s.addr .config data, setPtrRequest s.addr .temp] rest s with
        devPtr := .known .temp, mem := s.mem.write (configCell s.addr) data }

/-- R64: after a failure of SETCFG at `#0` the pointer is not restored: `#1` is not issued, and what Configuration holds
is not known (entry 10). That Temperature outlives a write of Configuration is the model's choice (entry 27). -/
def Obligations.SetcfgStopsAtAFailedWrite : Prop :=
  ∀ (s : State) (data : Byte) (r0 : Response) (rest : List Response),
    Ready s → s.answers = r0 :: rest → ¬ Good r0 →
    exec (.setcfg data) s = .next { finished [writeRequest s.addr .config data] rest s with
      devPtr := .unknown, mem := s.mem.forget (configCell s.addr), status := statusWord r0.xstatus 0 .busErr }

/-- R65: GETRES. The result is the field in bits [6:5] plus 9, one of 9 to 12. That the temporaries keep their last value
in the IDLE block is the model's choice (entry 5). -/
def Obligations.GetresCompletes : Prop :=
  ∀ (s : State) (c : Byte) (r0 r1 : Response) (rest : List Response),
    Ready s → s.answers = r0 :: r1 :: rest → GoodByte r0 c → Good r1 →
    exec .getres s = .next { finished [readRequest s.addr .config 1, setPtrRequest s.addr .temp] rest s with
      devPtr := .known .temp, cfgTmp := c, rx := [c], result := (c.extractLsb' 5 2).setWidth 16 + 9 } ∧
    9 ≤ ((c.extractLsb' 5 2).setWidth 16 + 9 : Word).toNat ∧ ((c.extractLsb' 5 2).setWidth 16 + 9 : Word).toNat ≤ 12

/-- R66: SETRES. That the temporaries keep their last value in the IDLE block is the model's choice (entry 5). That
Temperature outlives a write of Configuration is the model's choice (entry 27). -/
def Obligations.SetresCompletes : Prop :=
  ∀ (s : State) (res : BitVec 2) (c : Byte) (r0 r1 r2 : Response) (rest : List Response),
    Ready s → s.answers = r0 :: r1 :: r2 :: rest → GoodByte r0 c → Good r1 → Good r2 →
    let v := (c &&& 0x9F) ||| (res.setWidth 8 <<< 5)
    exec (.setres res) s = .next { finished
        [readRequest s.addr .config 1, writeRequest s.addr .config v, setPtrRequest s.addr .temp] rest s with
      devPtr := .known .temp, cfgTmp := c, rx := [c], mem := s.mem.write (configCell s.addr) v }

/-- R66: SETRES writes nothing when its read fails or is short. That `RX` and `CFG_TMP` take nothing from a read that
fails or is short is the model's choice (entry 5). -/
def Obligations.SetresWritesNothingIfReadFails : Prop :=
  ∀ (s : State) (res : BitVec 2) (r0 : Response) (rest : List Response),
    Ready s → s.answers = r0 :: rest →
    (¬ Good r0 → exec (.setres res) s = .next { finished [readRequest s.addr .config 1] rest s with
      devPtr := .unknown, status := statusWord r0.xstatus 0 .busErr }) ∧
    (Good r0 → r0.bytes = [] → exec (.setres res) s = .next { finished [readRequest s.addr .config 1] rest s with
      devPtr := .unknown, status := statusWord 0 0 .noData })

/-- R22: the bits of Configuration that each read-modify-write changes; it writes back every other bit as read. -/
def Obligations.EditsKeepTheOtherBits : Prop :=
  ∀ (c : Byte) (res : BitVec 2) (m : Mode) (k : Nat),
    (editConfig (.resolution res) c).extractLsb' 5 2 = res ∧
    (k ≠ 5 → k ≠ 6 → (editConfig (.resolution res) c).getLsbD k = c.getLsbD k) ∧
    (editConfig (.mode m) c).extractLsb' 0 1 = m.bit ∧
    (k ≠ 0 → (editConfig (.mode m) c).getLsbD k = c.getLsbD k) ∧
    (editConfig .oneShot c).getLsbD 7 = true ∧
    (k ≠ 7 → (editConfig .oneShot c).getLsbD k = c.getLsbD k)

/-- R67: after a SETRES with code `res` that completed OK, Configuration differs from the byte it had read in bits [6:5]
only, and a GETRES that then reads what Configuration holds returns `res + 9`. -/
def Obligations.ResolutionRoundTrip : Prop :=
  ∀ (s t u : State) (res : BitVec 2) (r0 r1 r2 g0 g1 : Response) (rest later : List Response) (c v : Byte),
    Ready s → s.answers = r0 :: r1 :: r2 :: rest → GoodByte r0 c → exec (.setres res) s = .next t →
    t.seq = .idle → t.status = 0x0000 →
    Ready u → u.addr = t.addr → u.mem = t.mem → u.answers = g0 :: g1 :: later →
    u.mem.read (configCell u.addr) = some v → GoodByte g0 v → Good g1 →
    (∀ k, k ≠ 5 → k ≠ 6 → v.getLsbD k = c.getLsbD k) ∧
    ∃ t', exec .getres u = .next t' ∧ t'.status = 0x0000 ∧ t'.result = res.setWidth 16 + 9

/-! ### Shutdown mode (44_shutdown_mode.md) -/

/-- R68: GETMODE issues no request and always completes. -/
def Obligations.GetmodeCompletes : Prop :=
  ∀ s : State, Ready s →
    exec .getmode s = .next { s with seq := .idle, done := true, result := s.modeCache.bit.setWidth 16 }

/-- R69: SETMODE. That the temporaries keep their last value in the IDLE block is the model's choice (entry 5). That
Temperature outlives a write of Configuration is the model's choice (entry 27). -/
def Obligations.SetmodeCompletes : Prop :=
  ∀ (s : State) (m : Mode) (c : Byte) (r0 r1 r2 : Response) (rest : List Response),
    Ready s → s.answers = r0 :: r1 :: r2 :: rest → GoodByte r0 c → Good r1 → Good r2 →
    let v := (c &&& 0xFE) ||| m.bit.setWidth 8
    exec (.setmode m) s = .next { finished
        [readRequest s.addr .config 1, writeRequest s.addr .config v, setPtrRequest s.addr .temp] rest s with
      modeCache := m, devPtr := .known .temp, cfgTmp := c, rx := [c], mem := s.mem.write (configCell s.addr) v }

/-- R69, R70: after SETMODE, whatever its outcome and however far it has come, the cache is `m`, and GETMODE then
returns it; after a failure at `#0` or `#1` the sensor's `SD`, where it was known, is unchanged. -/
def Obligations.SetmodeThenGetmode : Prop :=
  ∀ (s t u : State) (m : Mode), Ready s → exec (.setmode m) s = .next t →
    t.modeCache = m ∧
    (Ready u → u.modeCache = t.modeCache → ∃ t', exec .getmode u = .next t' ∧ t'.result = m.bit.setWidth 16) ∧
    (∀ c, s.mem.read (configCell s.addr) = some c → t.seq = .idle → t.status ≠ 0x0000 →
      (statusStep t.status).toNat ≤ 1 →
      ∃ d, t.mem.read (configCell s.addr) = some d ∧ shutdownField d = shutdownField c)

/-- R7: GETCFG, SETCFG, GETRES, SETRES, GETMODE and READTEMP leave the mode cache. -/
def Obligations.OnlyFourCommandsWriteTheCache : Prop :=
  ∀ (i : Instr) (s t : State), writesCache i = false → exec i s = .next t → t.modeCache = s.modeCache

/-- R7, R70: the cache changes only in a step of a reset, or in a turn of the BUSY block in one of INIT, INIT_RES,
INIT_RES_MODE and SETMODE. -/
def Obligations.CacheChangesOnlyInItsCommands : Prop :=
  ∀ s t : State, step s = .next t → t.modeCache ≠ s.modeCache →
    (∃ a later, s.agenda = .reset a :: later) ∨
    s.seq = .busy ∧ (s.agenda = [] ∨ ∃ later, s.agenda = .block :: later) ∧ t.cmd = s.cmd ∧
    ∃ i, decode s.cmd = .ok i ∧
      (i = .init ∨ (∃ res, i = .initRes res) ∨ (∃ res m, i = .initResMode res m) ∨ ∃ m, i = .setmode m)

/-! ### Temperature (45_temperature.md) -/

/-- R71, R74 to R77, in NORMAL mode: READTEMP is one two-byte read of TEMP; RESULT is the sign-extended field [15:4] of the
word whose high byte came first, TEMPF its Fahrenheit value. That `RX`, `W` and `T16` keep their last value in the IDLE
block is the model's choice (entry 5). -/
def Obligations.ReadtempNormalCompletes : Prop :=
  ∀ (s : State) (b0 b1 : Byte) (more : List Byte) (r0 : Response) (rest : List Response),
    Ready s → s.modeCache = .normal → s.answers = r0 :: rest → Good r0 → r0.bytes = b0 :: b1 :: more →
    let t16 := ((b0 ++ b1).extractLsb' 4 12).signExtend 16
    exec .readtemp s = .next { finished [readRequest s.addr .temp 2] rest s with
      devPtr := .known .temp, rx := [b0, b1], wordTmp := b0 ++ b1, t16 := t16, result := t16,
      tempf := fahrenheit32 Config.cdiv t16 }

/-- R71 to R74, in SHUTDOWN mode: the one-shot bit is set by a read-modify-write, the delay passes, and the two-byte read
follows. That the temporaries keep their last value in the IDLE block is the model's choice (entry 5). That Temperature
outlives a write of Configuration is the model's choice (entry 27). -/
def Obligations.ReadtempShutdownCompletes : Prop :=
  ∀ (s : State) (c b0 b1 : Byte) (more : List Byte) (n : Nat) (r0 r1 r3 : Response) (rest : List Response),
    Ready s → s.modeCache = .shutdown → s.answers = r0 :: r1 :: r3 :: rest → s.completions = n + 1 →
    GoodByte r0 c → Good r1 → Good r3 → r3.bytes = b0 :: b1 :: more →
    let t16 := ((b0 ++ b1).extractLsb' 4 12).signExtend 16
    exec .readtemp s = .next { finished
        [readRequest s.addr .config 1, writeRequest s.addr .config (c ||| 0x80), settleRequest,
          readRequest s.addr .temp 2] rest s with
      completions := n, devPtr := .known .temp, cfgTmp := c, rx := [b0, b1], wordTmp := b0 ++ b1, t16 := t16,
      result := t16, tempf := fahrenheit32 Config.cdiv t16, mem := s.mem.write (configCell s.addr) (c ||| 0x80) }

/-- R72, R73, R105: with the delay not yet completed the block waits BUSY, the delay of 350 ms outstanding, the pointer at
Configuration. That Temperature outlives a write of Configuration is the model's choice (entry 27). -/
def Obligations.ReadtempWaitsForTheDelay : Prop :=
  ∀ (s : State) (c : Byte) (r0 r1 : Response) (rest : List Response),
    Ready s → s.modeCache = .shutdown → s.answers = r0 :: r1 :: rest → s.completions = 0 → GoodByte r0 c → Good r1 →
    exec .readtemp s = .next { s with
      stepIdx := 2, outstanding := some (.delay 350), answers := rest, devPtr := .known .config, cfgTmp := c, rx := [c],
      sent := s.sent ++ [readRequest s.addr .config 1, writeRequest s.addr .config (c ||| 0x80), .delay 350],
      mem := s.mem.write (configCell s.addr) (c ||| 0x80) }

/-- R83: a failure in the one-shot step, or a short read in it, ends READTEMP before the delay and the temperature read.
What Configuration holds after the failed write is not known (entry 10), and that the temporaries keep their last value in
the IDLE block is the model's choice (entry 5). That Temperature outlives a write of Configuration is the model's choice
(entry 27). That `RX` and `CFG_TMP` take nothing from a read that fails or is short is the model's choice (entry 5). -/
def Obligations.OneShotFailureSkipsTheRead : Prop :=
  ∀ (s : State) (c : Byte) (r0 r1 : Response) (rest : List Response), Ready s → s.modeCache = .shutdown →
    (s.answers = r0 :: rest → ¬ Good r0 →
      exec .readtemp s = .next { finished [readRequest s.addr .config 1] rest s with
        devPtr := .unknown, status := statusWord r0.xstatus 0 .busErr }) ∧
    (s.answers = r0 :: rest → Good r0 → r0.bytes = [] →
      exec .readtemp s = .next { finished [readRequest s.addr .config 1] rest s with
        devPtr := .unknown, status := statusWord 0 0 .noData }) ∧
    (s.answers = r0 :: r1 :: rest → GoodByte r0 c → ¬ Good r1 →
      exec .readtemp s = .next { finished
          [readRequest s.addr .config 1, writeRequest s.addr .config (c ||| 0x80)] rest s with
        devPtr := .unknown, cfgTmp := c, rx := [c], mem := s.mem.forget (configCell s.addr),
        status := statusWord r1.xstatus 1 .busErr })

/-- R76, R77: taking the field and sign-extending it is the arithmetic shift of the word, and is the source's form, an OR
with 0xF800 when bit 11 is set. -/
def Obligations.SignExtensionForms : Prop :=
  (∀ w : Word, signExtend12 (field12 w) = w.sshiftRight 4) ∧
  (∀ t12 : BitVec 12, signExtend12 t12 = if t12.getLsbD 11 then t12.setWidth 16 ||| 0xF800 else t12.setWidth 16)

/-- R82: the range and the sign of T16, and the don't-care bits. -/
def Obligations.DecoderRangeAndSign : Prop :=
  ∀ b0 b1 : Byte,
    -2048 ≤ (t16Of (assembleWord b0 b1)).toInt ∧ (t16Of (assembleWord b0 b1)).toInt ≤ 2047 ∧
    ((t16Of (assembleWord b0 b1)).toInt < 0 ↔ 0x80 ≤ b0.toNat) ∧
    t16Of (assembleWord b0 (b1 &&& 0xF0)) = t16Of (assembleWord b0 b1)

/-- R78: the two readings of the Celsius division agree exactly on the multiples of 16. -/
def Obligations.CelsiusReadingsAgreeOnMultiples : Prop :=
  ∀ t : Word, celsius .exact t = celsius .trunc t ↔ t.toInt % 16 = 0

/-- R80, R82: the rational that TEMPF rounds is `9/5 · C + 32`, in the closed forms of R80 and within the bounds of R82;
it is never 0 (R81). -/
def Obligations.FahrenheitOfTheDecoder : Prop :=
  ∀ (d : CDiv) (b0 b1 : Byte),
    let t := t16Of (assembleWord b0 b1)
    fahrenheit d t = (fahrenheitNum (celsiusSixteenths d t.toInt) : ℚ) / (fahrenheitDen : ℚ) ∧
    fahrenheit .exact t = (9 * t.toInt + 2560) / 80 ∧
    fahrenheit .trunc t = (9 * (t.toInt.tdiv 16 : ℤ) + 160) / 5 ∧
    -198.4 ≤ fahrenheit d t ∧ fahrenheit d t ≤ 262.2875 ∧ (d = .trunc → fahrenheit d t ≤ 260.6) ∧ fahrenheit d t ≠ 0

/-- R81: TEMPF is finite, and no finite binary32 value is nearer to the exact Fahrenheit value; where another is as near,
the last bit of TEMPF is 0 (ties to even). Both values of `P_CDIV`. -/
def Obligations.TempfIsTheNearestBinary32 : Prop :=
  ∀ (d : CDiv) (b0 b1 : Byte),
    let t := t16Of (assembleWord b0 b1)
    let x := fahrenheit32 d t
    F32Finite x ∧ f32Value x ≠ 0 ∧
    ∀ y : BitVec 32, F32Finite y →
      |f32Value x - fahrenheit d t| ≤ |f32Value y - fahrenheit d t| ∧
      (|f32Value x - fahrenheit d t| = |f32Value y - fahrenheit d t| → f32Value y ≠ f32Value x → x.getLsbD 0 = false)

/-! ### Frames and invariants of the whole machine -/

/-- R17, R26: no command changes what is known of a register other than Configuration at the block's own address. That
Temperature outlives a write of Configuration is the model's choice (entry 27). -/
def Obligations.CommandsTouchOnlyConfiguration : Prop :=
  ∀ (i : Instr) (s t : State), exec i s = .next t →
    ∀ a, a ≠ configCell s.addr → t.mem.read a = s.mem.read a

/-- R59, R63, R65, R68, R71: INIT, GETCFG, GETRES, GETMODE, and READTEMP in NORMAL mode, change no byte of memory. -/
def Obligations.ReadingCommandsKeepMemory : Prop :=
  ∀ (i : Instr) (s t : State),
    i = .init ∨ i = .getcfg ∨ i = .getres ∨ i = .getmode ∨ (i = .readtemp ∧ s.modeCache = .normal) →
    exec i s = .next t → t.mem = s.mem

/-- What no command changes: the address (R6, R92), the latched word (R35), the host's offers (R49), the schedule; and the
requests it sends come after those already sent (R33). -/
def Obligations.CommandFrame : Prop :=
  ∀ (i : Instr) (s t : State), exec i s = .next t →
    t.addr = s.addr ∧ t.cmd = s.cmd ∧ t.offers = s.offers ∧ t.agenda = s.agenda ∧ s.sent <+: t.sent

/-- R6: `S.ADDR` changes only in a reset, to `addr_init`. -/
def Obligations.AddressChangesOnlyInReset : Prop :=
  ∀ s t : State, step s = .next t → t.addr ≠ s.addr → ∃ later, s.agenda = .reset t.addr :: later

/-- R58: a command other than GETMODE that completes with OK leaves the sensor's pointer at TEMP. That no other master's
transaction falls between the last one and the completion is the model's choice (entry 26). -/
def Obligations.CompletedCommandRestoresThePointer : Prop :=
  ∀ (s t : State) (i : Instr), MachineInv s → step s = .next t → t.done = true → t.status = 0x0000 →
    decode t.cmd = .ok i → i ≠ .getmode → t.devPtr = .known .temp

/-- R99: a reset, whatever the block is doing, sets the registers and issues no request. -/
def Obligations.ResetSetsTheRegisters : Prop :=
  ∀ (s : State) (a : BitVec 7) (later : List Move), s.agenda = .reset a :: later →
    ∃ t, step s = .next t ∧
      t.addr = a ∧ t.modeCache = .normal ∧ t.seq = .idle ∧ t.cmd = 0x0000 ∧ t.stepIdx = 0 ∧ t.status = 0x0000 ∧
      t.result = 0x0000 ∧ t.tempf = 0x00000000 ∧ t.sent = s.sent

/-- R100, R101: a reset, whatever the block is doing, reports no outcome and raises no `done`, leaves no request
outstanding, and the pointer is unknown; with none outstanding it makes no response late. If one is outstanding,
Configuration is unknown if the request would write it; the response is discarded, at once if it is there, else when it
arrives, and the pointer and Configuration stay unknown until it does, whatever another master or the sensor does. Every
other byte of a sensor that is known stays as it was. After a reset the block's sensor holds a byte in each place of
Temperature and of Configuration (R14), where nothing was known a free value (U8, entry 9), but for a Configuration that
an abandoned write may still change. That the pointer is unknown after every reset, not only the first, is the model's
reading (entry 8). That the abandoned request no longer counts as outstanding, before its response has arrived, is the
model's choice (entry 28), and so is that an owed response is the next to arrive (entry 11). That Temperature outlives a
write of Configuration is the model's choice (entry 27). That another agent's move ends the pulse of `done` is the model's
choice (entry 13). -/
def Obligations.LateResponseIsDiscarded : Prop :=
  (∀ (s : State) (a : BitVec 7) (later : List Move), s.agenda = .reset a :: later →
    ∃ t, step s = .next t ∧ t.outstanding = none ∧ t.done = false ∧ t.status = 0x0000 ∧ t.devPtr = .unknown ∧
      (s.outstanding = none → t.lateRequests = s.lateRequests ∧ t.lateDelays = s.lateDelays ∧
        t.answers = s.answers ∧ t.completions = s.completions)) ∧
  (∀ (s t : State) (a : BitVec 7) (later : List Move) (q : Request),
    s.agenda = .reset a :: later → s.outstanding = some q → step s = .next t →
    (match q with
      | .transport p =>
        (s.answers = [] → t.lateRequests = s.lateRequests ++ [p] ∧ t.answers = []) ∧
        (s.answers ≠ [] → t.lateRequests = s.lateRequests ∧ t.answers = s.answers.tail) ∧
        (s.mem.wf = true → p.kind = .write1 → p.ptr = Reg.config.code → t.mem.read (configCell p.addr) = none)
      | .delay _ =>
        (s.completions = 0 → t.lateDelays = s.lateDelays + 1 ∧ t.completions = 0) ∧
        (s.completions ≠ 0 → t.lateDelays = s.lateDelays ∧ t.completions = s.completions - 1))) ∧
  (∀ (s t : State) (a : BitVec 7) (later : List Move),
    MachineInv s → s.agenda = .reset a :: later → step s = .next t →
    (∀ c d, s.mem.read c = some d →
      (∀ p, s.outstanding = some (.transport p) → p.kind = .write1 → p.ptr = Reg.config.code → c ≠ configCell p.addr) →
      t.mem.read c = some d) ∧
    (∀ c, c ≠ configCell a → c ≠ tempCell a 0 → c ≠ tempCell a 1 → s.mem.read c = none → t.mem.read c = none) ∧
    (t.mem.read (tempCell a 0)).isSome ∧ (t.mem.read (tempCell a 1)).isSome ∧
    ((∀ p, p ∈ s.lateRequests ∨ s.outstanding = some (.transport p) →
        p.kind = .write1 → p.ptr = Reg.config.code → p.addr ≠ a) →
      (t.mem.read (configCell a)).isSome)) ∧
  (∀ (s : State) (p : TransportRequest) (late : List TransportRequest) (rsp : Response) (later : List Move),
    s.agenda = .answer rsp :: later → s.lateRequests = p :: late →
    step s = .next { s with done := false, agenda := later, lateRequests := late }) ∧
  (∀ (s : State) (n : Nat) (later : List Move),
    s.agenda = .delayDone :: later → s.lateDelays = n + 1 →
    step s = .next { s with done := false, agenda := later, lateDelays := n }) ∧
  (∀ (s t : State) (p : TransportRequest) (mv : Move) (later : List Move),
    s.mem.wf = true → p ∈ s.lateRequests → s.agenda = mv :: later → step s = .next t →
    (p.kind ≠ .begin → p.addr = s.addr → (∃ q rsp, mv = .other q rsp) → t.devPtr = .unknown) ∧
    (p.kind = .write1 → p.ptr = Reg.config.code → (∃ q rsp, mv = .other q rsp) ∨ (∃ cfg, mv = .sensor cfg) →
      t.mem.read (configCell p.addr) = none))

/-- 10_state.md section 6, R99, R14: the machine right after construction with the default address satisfies the invariant,
has the values of R99, and its sensor holds a byte in each place of Temperature and of Configuration: free values, of which
nothing else is stated (U8, entry 9). -/
def Obligations.ResetSatisfiesTheInvariant : Prop :=
  MachineInv State.reset ∧ State.reset.addr = 0x48 ∧ State.reset.modeCache = .normal ∧ State.reset.seq = .idle ∧
    State.reset.cmd = 0x0000 ∧ State.reset.stepIdx = 0 ∧ State.reset.status = 0x0000 ∧ State.reset.result = 0x0000 ∧
    State.reset.tempf = 0x00000000 ∧ State.reset.devPtr = .unknown ∧
    (State.reset.mem.read (configCell 0x48)).isSome ∧ (State.reset.mem.read (tempCell 0x48 0)).isSome ∧
    (State.reset.mem.read (tempCell 0x48 1)).isSome

/-- R8 to R11, R13, R33, R49 to R52, R84, R100: every step of every agent keeps the invariant. Its clauses on abandoned
requests rest on the order of arrival that entry 11 chooses, and that a reset leaves no request outstanding is entry 28's
choice. -/
def Obligations.StepKeepsTheInvariant : Prop :=
  ∀ s t : State, MachineInv s → step s = .next t → MachineInv t
end

