-- ==== Sys2Proof/Laws/Memory.lean ====
section
/-! SUPPORT. The laws of the memory: reading after a write or a forgetting, and the canonical form every operation keeps. -/

namespace Sys2Proof.Machine

@[simp] theorem memory_read_nil (a : Nat) : Memory.read [] a = none := rfl

@[simp] theorem memory_read_cons (c : Host.Cell) (m : Memory) (a : Nat) :
    Memory.read (c :: m) a = if c.1 = a then some c.2 else m.read a := rfl

theorem memory_read_write_same (m : Memory) (a : Nat) (d : Byte) : (m.write a d).read a = some d := by
  induction m with
  | nil => simp [Memory.write]
  | cons c m ih =>
    simp only [Memory.write]
    split
    · simp
    · split
      · simp
      · rename_i _ h
        have : c.1 ≠ a := fun h' => h h'.symm
        simp [ih, this]

theorem memory_read_write_other (m : Memory) (a b : Nat) (d : Byte) (h : b ≠ a) : (m.write a d).read b = m.read b := by
  induction m with
  | nil => simp [Memory.write, h.symm]
  | cons c m ih =>
    simp only [Memory.write]
    split
    · simp [h.symm]
    · split
      · rename_i h'
        have : c.1 ≠ b := fun e => h (e.symm.trans h'.symm)
        simp [h.symm, this]
      · simp [ih]

theorem memory_read_forget_other (m : Memory) (a b : Nat) (h : b ≠ a) : (m.forget a).read b = m.read b := by
  induction m with
  | nil => simp [Memory.forget]
  | cons c m ih =>
    simp only [Memory.forget]
    split
    · rename_i h'
      have : c.1 ≠ b := fun e => h (e.symm.trans h')
      simp [this]
    · simp [ih]

/-- The canonical form, one cell at a time: the first address lies below the next, and the rest has the form. -/
theorem memory_wf_cons (c : Host.Cell) (m : Memory) :
    Memory.wf (c :: m) = true ↔ (∀ c' ∈ m.head?, c.1 < c'.1) ∧ m.wf = true := by
  cases m with
  | nil => simp [Memory.wf]
  | cons c' m => simp [Memory.wf]

/-- In the canonical form no address below the first one is listed. -/
theorem memory_read_below (c : Host.Cell) (m : Memory) (h : Memory.wf (c :: m) = true) (a : Nat) (ha : a ≤ c.1) :
    m.read a = none := by
  induction m generalizing c with
  | nil => rfl
  | cons c' m ih =>
    obtain ⟨hlt, hwf⟩ := (memory_wf_cons _ _).1 h
    have hlt : c.1 < c'.1 := hlt c' (by simp)
    have : c'.1 ≠ a := by omega
    simp [this, ih c' hwf (by omega)]

theorem memory_read_forget_same (m : Memory) (a : Nat) (h : m.wf = true) : (m.forget a).read a = none := by
  induction m with
  | nil => rfl
  | cons c m ih =>
    simp only [Memory.forget]
    split
    · rename_i h'
      exact memory_read_below c m h a h'.ge
    · rename_i h'
      simp [h', ih ((memory_wf_cons _ _).1 h).2]

theorem memory_head_write (m : Memory) (a : Nat) (d : Byte) :
    ∀ c ∈ (m.write a d).head?, c.1 = a ∨ c ∈ m.head? := by
  cases m with
  | nil => simp [Memory.write]
  | cons c m =>
    simp only [Memory.write]
    split
    · simp
    · split <;> simp

theorem memory_wf_write (m : Memory) (a : Nat) (d : Byte) (h : m.wf = true) : (m.write a d).wf = true := by
  induction m with
  | nil => rfl
  | cons c m ih =>
    obtain ⟨hlt, hwf⟩ := (memory_wf_cons _ _).1 h
    simp only [Memory.write]
    split
    · rename_i h'
      exact (memory_wf_cons _ _).2 ⟨by simpa using h', h⟩
    · split
      · rename_i h'
        exact (memory_wf_cons _ _).2 ⟨by simpa [h'] using hlt, hwf⟩
      · refine (memory_wf_cons _ _).2 ⟨fun c' hc' => ?_, ih hwf⟩
        rcases memory_head_write m a d c' hc' with h1 | h1
        · omega
        · exact hlt c' h1

theorem memory_wf_forget (m : Memory) (a : Nat) (h : m.wf = true) : (m.forget a).wf = true := by
  induction m with
  | nil => rfl
  | cons c m ih =>
    obtain ⟨hlt, hwf⟩ := (memory_wf_cons _ _).1 h
    simp only [Memory.forget]
    split
    · exact hwf
    · refine (memory_wf_cons _ _).2 ⟨?_, ih hwf⟩
      cases m with
      | nil => simp [Memory.forget]
      | cons c' m =>
        have h1 : c.1 < c'.1 := hlt c' (by simp)
        simp only [Memory.forget]
        split
        · cases m with
          | nil => simp
          | cons c'' m =>
            have h2 : c'.1 < c''.1 := ((memory_wf_cons _ _).1 hwf).1 c'' (by simp)
            simp; omega
        · simpa using h1

/-- A filled byte reads as it did, or as the new one if it was not listed. -/
theorem memory_read_fill_same (m : Memory) (a : Nat) (d : Byte) : (m.fill a d).read a = some ((m.read a).getD d) := by
  unfold Memory.fill
  cases h : m.read a with
  | none => exact memory_read_write_same m a d
  | some c => simpa using h

theorem memory_read_fill_other (m : Memory) (a b : Nat) (d : Byte) (h : b ≠ a) : (m.fill a d).read b = m.read b := by
  unfold Memory.fill
  split
  · exact memory_read_write_other m a b d h
  · rfl

theorem memory_read_fill_listed (m : Memory) (a b : Nat) (d c : Byte) (h : m.read b = some c) :
    (m.fill a d).read b = some c := by
  by_cases hb : b = a
  · subst hb; rw [memory_read_fill_same, h]; rfl
  · rw [memory_read_fill_other m a b d hb, h]

theorem memory_wf_fill (m : Memory) (a : Nat) (d : Byte) (h : m.wf = true) : (m.fill a d).wf = true := by
  unfold Memory.fill
  split
  · exact memory_wf_write m a d h
  · exact h

/-! ### The contents of a sensor's registers -/

theorem configCell_ne_tempCell (a b : BitVec 7) (k : Nat) (hk : k < 2) : configCell a ≠ tempCell b k := by
  simp [configCell, tempCell, registerCell, Config.ptrConfig, Config.ptrTemp]
  omega

theorem sensorHolds_wf (addr : BitVec 7) (n : Nat) (m : Memory) (h : m.wf = true) : (sensorHolds addr n m).wf = true :=
  memory_wf_fill _ _ _ (memory_wf_fill _ _ _ (memory_wf_fill _ _ _ h))

/-- A byte that is known stays as it is (R101). -/
theorem sensorHolds_read_listed (addr : BitVec 7) (n : Nat) (m : Memory) (a : Nat) (c : Byte) (h : m.read a = some c) :
    (sensorHolds addr n m).read a = some c :=
  memory_read_fill_listed _ _ _ _ _ (memory_read_fill_listed _ _ _ _ _ (memory_read_fill_listed _ _ _ _ _ h))

/-- The three bytes of the sensor (R14): each as it was, or a free value. -/
theorem sensorHolds_read (addr : BitVec 7) (n : Nat) (m : Memory) :
    (sensorHolds addr n m).read (tempCell addr 0) = some ((m.read (tempCell addr 0)).getD (Config.freeByte n)) ∧
    (sensorHolds addr n m).read (tempCell addr 1) = some ((m.read (tempCell addr 1)).getD (Config.freeByte (n + 1))) ∧
    (sensorHolds addr n m).read (configCell addr) = some ((m.read (configCell addr)).getD (Config.freeByte (n + 2))) := by
  have h0 := configCell_ne_tempCell addr addr 0 (by decide)
  have h1 := configCell_ne_tempCell addr addr 1 (by decide)
  have h01 : tempCell addr 0 ≠ tempCell addr 1 := by simp [tempCell, registerCell]
  unfold sensorHolds
  refine ⟨?_, ?_, ?_⟩
  · rw [memory_read_fill_other _ _ _ _ h0.symm, memory_read_fill_other _ _ _ _ h01, memory_read_fill_same]
  · rw [memory_read_fill_other _ _ _ _ h1.symm, memory_read_fill_same, memory_read_fill_other _ _ _ _ h01.symm]
  · rw [memory_read_fill_same, memory_read_fill_other _ _ _ _ h1, memory_read_fill_other _ _ _ _ h0]

/-- Every other byte is as it was. -/
theorem sensorHolds_read_other (addr : BitVec 7) (n : Nat) (m : Memory) (a : Nat) (hc : a ≠ configCell addr)
    (h0 : a ≠ tempCell addr 0) (h1 : a ≠ tempCell addr 1) : (sensorHolds addr n m).read a = m.read a := by
  unfold sensorHolds
  rw [memory_read_fill_other _ _ _ _ hc, memory_read_fill_other _ _ _ _ h1, memory_read_fill_other _ _ _ _ h0]

/-- The sensor at the default address has no byte that is known, and a free value in each (R14, U8). -/
theorem reset_mem : State.reset.mem = sensorHolds Config.addrDefault 0 [] := by
  simp [State.reset, sensorHolds, Memory.fill, Memory.write, configCell, tempCell, registerCell, Config.addrDefault,
    Config.ptrConfig, Config.ptrTemp]

theorem reset_mem_wf : State.reset.mem.wf = true := by rw [reset_mem]; exact sensorHolds_wf _ _ _ rfl

/-- After a reset the sensor at the default address holds the free values 0 to 2 (R14, U8). -/
theorem reset_mem_read :
    State.reset.mem.read (tempCell Config.addrDefault 0) = some (Config.freeByte 0) ∧
    State.reset.mem.read (tempCell Config.addrDefault 1) = some (Config.freeByte 1) ∧
    State.reset.mem.read (configCell Config.addrDefault) = some (Config.freeByte 2) := by
  rw [reset_mem]; exact sensorHolds_read Config.addrDefault 0 []

end Sys2Proof.Machine
end

