-- ==== Sys2Proof/Laws/State.lean ====
section
/-! SUPPORT. For each operation that updates the state: what every field of the state is after it. Each theorem is one
conjunction, a clause for each field, so that simp rewrites with each clause. -/

namespace Sys2Proof.Machine

@[simp] theorem transact_fields (q : TransportRequest) (rsp : Response) (s : State) :
    (transact q rsp s).addr = s.addr ∧ (transact q rsp s).modeCache = s.modeCache ∧
    (transact q rsp s).seq = s.seq ∧ (transact q rsp s).cmd = s.cmd ∧ (transact q rsp s).stepIdx = s.stepIdx ∧
    (transact q rsp s).status = s.status ∧ (transact q rsp s).result = s.result ∧
    (transact q rsp s).tempf = s.tempf ∧ (transact q rsp s).done = s.done ∧ (transact q rsp s).cfgTmp = s.cfgTmp ∧
    (transact q rsp s).rx = s.rx ∧ (transact q rsp s).wordTmp = s.wordTmp ∧ (transact q rsp s).t16 = s.t16 ∧
    (transact q rsp s).outstanding = s.outstanding ∧ (transact q rsp s).lateRequests = s.lateRequests ∧
    (transact q rsp s).lateDelays = s.lateDelays ∧ (transact q rsp s).devPtr = pointerAfter q rsp s ∧
    (transact q rsp s).mem = memoryAfter q rsp s.mem ∧ (transact q rsp s).offers = s.offers ∧
    (transact q rsp s).answers = s.answers ∧ (transact q rsp s).completions = s.completions ∧
    (transact q rsp s).agenda = s.agenda ∧ (transact q rsp s).sent = s.sent ∧
    (transact q rsp s).freeCount = s.freeCount :=
  ⟨rfl, rfl, rfl, rfl, rfl, rfl, rfl, rfl, rfl, rfl, rfl, rfl, rfl, rfl, rfl, rfl, rfl, rfl, rfl, rfl, rfl, rfl, rfl, rfl⟩

@[simp] theorem transactOther_fields (q : TransportRequest) (rsp : Response) (s : State) :
    (transactOther q rsp s).addr = s.addr ∧ (transactOther q rsp s).modeCache = s.modeCache ∧
    (transactOther q rsp s).seq = s.seq ∧ (transactOther q rsp s).cmd = s.cmd ∧
    (transactOther q rsp s).stepIdx = s.stepIdx ∧ (transactOther q rsp s).status = s.status ∧
    (transactOther q rsp s).result = s.result ∧ (transactOther q rsp s).tempf = s.tempf ∧
    (transactOther q rsp s).done = s.done ∧ (transactOther q rsp s).cfgTmp = s.cfgTmp ∧
    (transactOther q rsp s).rx = s.rx ∧ (transactOther q rsp s).wordTmp = s.wordTmp ∧
    (transactOther q rsp s).t16 = s.t16 ∧ (transactOther q rsp s).outstanding = s.outstanding ∧
    (transactOther q rsp s).lateRequests = s.lateRequests ∧ (transactOther q rsp s).lateDelays = s.lateDelays ∧
    (transactOther q rsp s).devPtr = (if pointerInDoubt s then .unknown else pointerAfter q rsp s) ∧
    (transactOther q rsp s).mem = forgetLate s.lateRequests (memoryAfterOther q rsp s.mem) ∧ (transactOther q rsp s).offers = s.offers ∧
    (transactOther q rsp s).answers = s.answers ∧ (transactOther q rsp s).completions = s.completions ∧
    (transactOther q rsp s).agenda = s.agenda ∧ (transactOther q rsp s).sent = s.sent ∧
    (transactOther q rsp s).freeCount = s.freeCount :=
  ⟨rfl, rfl, rfl, rfl, rfl, rfl, rfl, rfl, rfl, rfl, rfl, rfl, rfl, rfl, rfl, rfl, rfl, rfl, rfl, rfl, rfl, rfl, rfl, rfl⟩

@[simp] theorem convert_fields (w : Word) (s : State) :
    (convert w s).addr = s.addr ∧ (convert w s).modeCache = s.modeCache ∧ (convert w s).seq = s.seq ∧
    (convert w s).cmd = s.cmd ∧ (convert w s).stepIdx = s.stepIdx ∧ (convert w s).status = s.status ∧
    (convert w s).result = s.result ∧ (convert w s).tempf = s.tempf ∧ (convert w s).done = s.done ∧
    (convert w s).cfgTmp = s.cfgTmp ∧ (convert w s).rx = s.rx ∧ (convert w s).wordTmp = s.wordTmp ∧
    (convert w s).t16 = s.t16 ∧ (convert w s).outstanding = s.outstanding ∧
    (convert w s).lateRequests = s.lateRequests ∧ (convert w s).lateDelays = s.lateDelays ∧
    (convert w s).devPtr = s.devPtr ∧
    (convert w s).mem = (s.mem.write (tempCell s.addr 0) (w.extractLsb' 8 8)).write (tempCell s.addr 1) (w.extractLsb' 0 8) ∧
    (convert w s).offers = s.offers ∧ (convert w s).answers = s.answers ∧ (convert w s).completions = s.completions ∧
    (convert w s).agenda = s.agenda ∧ (convert w s).sent = s.sent ∧
    (convert w s).freeCount = s.freeCount :=
  ⟨rfl, rfl, rfl, rfl, rfl, rfl, rfl, rfl, rfl, rfl, rfl, rfl, rfl, rfl, rfl, rfl, rfl, rfl, rfl, rfl, rfl, rfl, rfl, rfl⟩

@[simp] theorem raiseOutcome_fields (code : OutcomeCode) (x : Byte) (k : BitVec 4) (s : State) :
    (raiseOutcome code x k s).addr = s.addr ∧ (raiseOutcome code x k s).modeCache = s.modeCache ∧
    (raiseOutcome code x k s).seq = .idle ∧ (raiseOutcome code x k s).cmd = s.cmd ∧
    (raiseOutcome code x k s).stepIdx = s.stepIdx ∧ (raiseOutcome code x k s).status = statusWord x k code ∧
    (raiseOutcome code x k s).result = s.result ∧ (raiseOutcome code x k s).tempf = s.tempf ∧
    (raiseOutcome code x k s).done = true ∧ (raiseOutcome code x k s).cfgTmp = s.cfgTmp ∧
    (raiseOutcome code x k s).rx = s.rx ∧ (raiseOutcome code x k s).wordTmp = s.wordTmp ∧
    (raiseOutcome code x k s).t16 = s.t16 ∧ (raiseOutcome code x k s).outstanding = none ∧
    (raiseOutcome code x k s).lateRequests = s.lateRequests ∧ (raiseOutcome code x k s).lateDelays = s.lateDelays ∧
    (raiseOutcome code x k s).devPtr = s.devPtr ∧ (raiseOutcome code x k s).mem = s.mem ∧
    (raiseOutcome code x k s).offers = s.offers ∧ (raiseOutcome code x k s).answers = s.answers ∧
    (raiseOutcome code x k s).completions = s.completions ∧ (raiseOutcome code x k s).agenda = s.agenda ∧
    (raiseOutcome code x k s).sent = s.sent ∧
    (raiseOutcome code x k s).freeCount = s.freeCount :=
  ⟨rfl, rfl, rfl, rfl, rfl, rfl, rfl, rfl, rfl, rfl, rfl, rfl, rfl, rfl, rfl, rfl, rfl, rfl, rfl, rfl, rfl, rfl, rfl, rfl⟩

@[simp] theorem raiseIllegal_fields (s : State) :
    (raiseIllegal s).addr = s.addr ∧ (raiseIllegal s).modeCache = s.modeCache ∧ (raiseIllegal s).seq = .idle ∧
    (raiseIllegal s).cmd = s.cmd ∧ (raiseIllegal s).stepIdx = s.stepIdx ∧
    (raiseIllegal s).status = statusWord 0 0 .illegal ∧ (raiseIllegal s).result = s.result ∧
    (raiseIllegal s).tempf = s.tempf ∧ (raiseIllegal s).done = true ∧ (raiseIllegal s).cfgTmp = s.cfgTmp ∧
    (raiseIllegal s).rx = s.rx ∧ (raiseIllegal s).wordTmp = s.wordTmp ∧ (raiseIllegal s).t16 = s.t16 ∧
    (raiseIllegal s).outstanding = none ∧ (raiseIllegal s).lateRequests = s.lateRequests ∧
    (raiseIllegal s).lateDelays = s.lateDelays ∧ (raiseIllegal s).devPtr = s.devPtr ∧
    (raiseIllegal s).mem = s.mem ∧ (raiseIllegal s).offers = s.offers ∧ (raiseIllegal s).answers = s.answers ∧
    (raiseIllegal s).completions = s.completions ∧ (raiseIllegal s).agenda = s.agenda ∧
    (raiseIllegal s).sent = s.sent ∧
    (raiseIllegal s).freeCount = s.freeCount :=
  ⟨rfl, rfl, rfl, rfl, rfl, rfl, rfl, rfl, rfl, rfl, rfl, rfl, rfl, rfl, rfl, rfl, rfl, rfl, rfl, rfl, rfl, rfl, rfl, rfl⟩

@[simp] theorem completeOk_fields (s : State) :
    (completeOk s).addr = s.addr ∧ (completeOk s).modeCache = s.modeCache ∧ (completeOk s).seq = .idle ∧
    (completeOk s).cmd = s.cmd ∧ (completeOk s).stepIdx = s.stepIdx ∧ (completeOk s).status = s.status ∧
    (completeOk s).result = s.result ∧ (completeOk s).tempf = s.tempf ∧ (completeOk s).done = true ∧
    (completeOk s).cfgTmp = s.cfgTmp ∧ (completeOk s).rx = s.rx ∧ (completeOk s).wordTmp = s.wordTmp ∧
    (completeOk s).t16 = s.t16 ∧ (completeOk s).outstanding = s.outstanding ∧
    (completeOk s).lateRequests = s.lateRequests ∧ (completeOk s).lateDelays = s.lateDelays ∧
    (completeOk s).devPtr = s.devPtr ∧ (completeOk s).mem = s.mem ∧ (completeOk s).offers = s.offers ∧
    (completeOk s).answers = s.answers ∧ (completeOk s).completions = s.completions ∧
    (completeOk s).agenda = s.agenda ∧ (completeOk s).sent = s.sent ∧
    (completeOk s).freeCount = s.freeCount :=
  ⟨rfl, rfl, rfl, rfl, rfl, rfl, rfl, rfl, rfl, rfl, rfl, rfl, rfl, rfl, rfl, rfl, rfl, rfl, rfl, rfl, rfl, rfl, rfl, rfl⟩

@[simp] theorem countRequest_fields (s : State) :
    (countRequest s).addr = s.addr ∧ (countRequest s).modeCache = s.modeCache ∧ (countRequest s).seq = s.seq ∧
    (countRequest s).cmd = s.cmd ∧ (countRequest s).stepIdx = s.stepIdx + 1 ∧ (countRequest s).status = s.status ∧
    (countRequest s).result = s.result ∧ (countRequest s).tempf = s.tempf ∧ (countRequest s).done = s.done ∧
    (countRequest s).cfgTmp = s.cfgTmp ∧ (countRequest s).rx = s.rx ∧ (countRequest s).wordTmp = s.wordTmp ∧
    (countRequest s).t16 = s.t16 ∧ (countRequest s).outstanding = none ∧
    (countRequest s).lateRequests = s.lateRequests ∧ (countRequest s).lateDelays = s.lateDelays ∧
    (countRequest s).devPtr = s.devPtr ∧ (countRequest s).mem = s.mem ∧ (countRequest s).offers = s.offers ∧
    (countRequest s).answers = s.answers ∧ (countRequest s).completions = s.completions ∧
    (countRequest s).agenda = s.agenda ∧ (countRequest s).sent = s.sent ∧
    (countRequest s).freeCount = s.freeCount :=
  ⟨rfl, rfl, rfl, rfl, rfl, rfl, rfl, rfl, rfl, rfl, rfl, rfl, rfl, rfl, rfl, rfl, rfl, rfl, rfl, rfl, rfl, rfl, rfl, rfl⟩

@[simp] theorem returnTemperature_fields (s : State) :
    (returnTemperature s).addr = s.addr ∧ (returnTemperature s).modeCache = s.modeCache ∧
    (returnTemperature s).seq = s.seq ∧ (returnTemperature s).cmd = s.cmd ∧
    (returnTemperature s).stepIdx = s.stepIdx ∧ (returnTemperature s).status = s.status ∧
    (returnTemperature s).done = s.done ∧ (returnTemperature s).cfgTmp = s.cfgTmp ∧
    (returnTemperature s).rx = s.rx ∧ (returnTemperature s).outstanding = s.outstanding ∧
    (returnTemperature s).lateRequests = s.lateRequests ∧ (returnTemperature s).lateDelays = s.lateDelays ∧
    (returnTemperature s).devPtr = s.devPtr ∧ (returnTemperature s).mem = s.mem ∧
    (returnTemperature s).offers = s.offers ∧ (returnTemperature s).answers = s.answers ∧
    (returnTemperature s).completions = s.completions ∧ (returnTemperature s).agenda = s.agenda ∧
    (returnTemperature s).sent = s.sent ∧
    (returnTemperature s).freeCount = s.freeCount :=
  ⟨rfl, rfl, rfl, rfl, rfl, rfl, rfl, rfl, rfl, rfl, rfl, rfl, rfl, rfl, rfl, rfl, rfl, rfl, rfl, rfl⟩

@[simp] theorem returnValue_fields (f : Finish) (s : State) :
    (returnValue f s).addr = s.addr ∧ (returnValue f s).modeCache = s.modeCache ∧ (returnValue f s).seq = s.seq ∧
    (returnValue f s).cmd = s.cmd ∧ (returnValue f s).stepIdx = s.stepIdx ∧ (returnValue f s).status = s.status ∧
    (returnValue f s).done = s.done ∧ (returnValue f s).cfgTmp = s.cfgTmp ∧ (returnValue f s).rx = s.rx ∧
    (returnValue f s).outstanding = s.outstanding ∧ (returnValue f s).lateRequests = s.lateRequests ∧
    (returnValue f s).lateDelays = s.lateDelays ∧ (returnValue f s).devPtr = s.devPtr ∧
    (returnValue f s).mem = s.mem ∧ (returnValue f s).offers = s.offers ∧ (returnValue f s).answers = s.answers ∧
    (returnValue f s).completions = s.completions ∧ (returnValue f s).agenda = s.agenda ∧
    (returnValue f s).sent = s.sent ∧
    (returnValue f s).freeCount = s.freeCount :=
  by cases f <;> exact ⟨rfl, rfl, rfl, rfl, rfl, rfl, rfl, rfl, rfl, rfl, rfl, rfl, rfl, rfl, rfl, rfl, rfl, rfl, rfl, rfl⟩

@[simp] theorem internalEffect_fields (a : MicroOp) (s : State) :
    (internalEffect a s).addr = s.addr ∧ (internalEffect a s).seq = s.seq ∧ (internalEffect a s).cmd = s.cmd ∧
    (internalEffect a s).stepIdx = s.stepIdx ∧ (internalEffect a s).status = s.status ∧
    (internalEffect a s).result = s.result ∧ (internalEffect a s).tempf = s.tempf ∧
    (internalEffect a s).done = s.done ∧ (internalEffect a s).cfgTmp = s.cfgTmp ∧ (internalEffect a s).rx = s.rx ∧
    (internalEffect a s).wordTmp = s.wordTmp ∧ (internalEffect a s).t16 = s.t16 ∧
    (internalEffect a s).outstanding = s.outstanding ∧ (internalEffect a s).lateRequests = s.lateRequests ∧
    (internalEffect a s).lateDelays = s.lateDelays ∧ (internalEffect a s).devPtr = s.devPtr ∧
    (internalEffect a s).mem = s.mem ∧ (internalEffect a s).offers = s.offers ∧
    (internalEffect a s).answers = s.answers ∧ (internalEffect a s).completions = s.completions ∧
    (internalEffect a s).agenda = s.agenda ∧ (internalEffect a s).sent = s.sent ∧
    (internalEffect a s).freeCount = s.freeCount :=
  by cases a <;> exact ⟨rfl, rfl, rfl, rfl, rfl, rfl, rfl, rfl, rfl, rfl, rfl, rfl, rfl, rfl, rfl, rfl, rfl, rfl, rfl, rfl, rfl, rfl, rfl⟩

@[simp] theorem receive_fields (a : MicroOp) (bytes : List Byte) (s : State) :
    (receive a bytes s).addr = s.addr ∧ (receive a bytes s).modeCache = s.modeCache ∧
    (receive a bytes s).seq = s.seq ∧ (receive a bytes s).cmd = s.cmd ∧ (receive a bytes s).stepIdx = s.stepIdx ∧
    (receive a bytes s).status = s.status ∧ (receive a bytes s).result = s.result ∧
    (receive a bytes s).tempf = s.tempf ∧ (receive a bytes s).done = s.done ∧
    (receive a bytes s).wordTmp = s.wordTmp ∧ (receive a bytes s).t16 = s.t16 ∧
    (receive a bytes s).outstanding = s.outstanding ∧ (receive a bytes s).lateRequests = s.lateRequests ∧
    (receive a bytes s).lateDelays = s.lateDelays ∧ (receive a bytes s).devPtr = s.devPtr ∧
    (receive a bytes s).mem = s.mem ∧ (receive a bytes s).offers = s.offers ∧
    (receive a bytes s).answers = s.answers ∧ (receive a bytes s).completions = s.completions ∧
    (receive a bytes s).agenda = s.agenda ∧ (receive a bytes s).sent = s.sent ∧
    (receive a bytes s).freeCount = s.freeCount :=
  by cases a <;> exact ⟨rfl, rfl, rfl, rfl, rfl, rfl, rfl, rfl, rfl, rfl, rfl, rfl, rfl, rfl, rfl, rfl, rfl, rfl, rfl, rfl, rfl, rfl⟩

@[simp] theorem send_fields (q : Request) (s : State) :
    (send q s).addr = s.addr ∧ (send q s).modeCache = s.modeCache ∧ (send q s).seq = s.seq ∧
    (send q s).cmd = s.cmd ∧ (send q s).stepIdx = s.stepIdx ∧ (send q s).status = s.status ∧
    (send q s).result = s.result ∧ (send q s).tempf = s.tempf ∧ (send q s).done = s.done ∧
    (send q s).cfgTmp = s.cfgTmp ∧ (send q s).rx = s.rx ∧ (send q s).wordTmp = s.wordTmp ∧ (send q s).t16 = s.t16 ∧
    (send q s).lateRequests = s.lateRequests ∧ (send q s).lateDelays = s.lateDelays ∧ (send q s).devPtr = s.devPtr ∧
    (send q s).mem = s.mem ∧ (send q s).offers = s.offers ∧ (send q s).answers = s.answers ∧
    (send q s).completions = s.completions ∧ (send q s).agenda = s.agenda ∧ (send q s).freeCount = s.freeCount :=
  by unfold send; split <;> exact ⟨rfl, rfl, rfl, rfl, rfl, rfl, rfl, rfl, rfl, rfl, rfl, rfl, rfl, rfl, rfl, rfl, rfl, rfl, rfl, rfl, rfl, rfl⟩

@[simp] theorem takeAnswer_fields (rsp : Response) (s : State) :
    (takeAnswer rsp s).addr = s.addr ∧ (takeAnswer rsp s).modeCache = s.modeCache ∧ (takeAnswer rsp s).seq = s.seq ∧
    (takeAnswer rsp s).cmd = s.cmd ∧ (takeAnswer rsp s).stepIdx = s.stepIdx ∧ (takeAnswer rsp s).status = s.status ∧
    (takeAnswer rsp s).result = s.result ∧ (takeAnswer rsp s).tempf = s.tempf ∧ (takeAnswer rsp s).done = s.done ∧
    (takeAnswer rsp s).cfgTmp = s.cfgTmp ∧ (takeAnswer rsp s).rx = s.rx ∧ (takeAnswer rsp s).wordTmp = s.wordTmp ∧
    (takeAnswer rsp s).t16 = s.t16 ∧ (takeAnswer rsp s).outstanding = s.outstanding ∧
    (takeAnswer rsp s).lateDelays = s.lateDelays ∧ (takeAnswer rsp s).devPtr = s.devPtr ∧
    (takeAnswer rsp s).mem = s.mem ∧ (takeAnswer rsp s).offers = s.offers ∧
    (takeAnswer rsp s).completions = s.completions ∧ (takeAnswer rsp s).agenda = s.agenda ∧
    (takeAnswer rsp s).sent = s.sent ∧ (takeAnswer rsp s).freeCount = s.freeCount :=
  by unfold takeAnswer; split <;> simp

@[simp] theorem takeCompletion_fields  (s : State) :
    (takeCompletion s).addr = s.addr ∧ (takeCompletion s).modeCache = s.modeCache ∧ (takeCompletion s).seq = s.seq ∧
    (takeCompletion s).cmd = s.cmd ∧ (takeCompletion s).stepIdx = s.stepIdx ∧ (takeCompletion s).status = s.status ∧
    (takeCompletion s).result = s.result ∧ (takeCompletion s).tempf = s.tempf ∧ (takeCompletion s).done = s.done ∧
    (takeCompletion s).cfgTmp = s.cfgTmp ∧ (takeCompletion s).rx = s.rx ∧ (takeCompletion s).wordTmp = s.wordTmp ∧
    (takeCompletion s).t16 = s.t16 ∧ (takeCompletion s).outstanding = s.outstanding ∧
    (takeCompletion s).lateRequests = s.lateRequests ∧ (takeCompletion s).devPtr = s.devPtr ∧
    (takeCompletion s).mem = s.mem ∧ (takeCompletion s).offers = s.offers ∧ (takeCompletion s).answers = s.answers ∧
    (takeCompletion s).agenda = s.agenda ∧ (takeCompletion s).sent = s.sent ∧
    (takeCompletion s).freeCount = s.freeCount :=
  by unfold takeCompletion; split <;> simp

@[simp] theorem sensorConfig_fields (cfg : Byte) (s : State) :
    (sensorConfig cfg s).addr = s.addr ∧ (sensorConfig cfg s).modeCache = s.modeCache ∧
    (sensorConfig cfg s).seq = s.seq ∧ (sensorConfig cfg s).cmd = s.cmd ∧ (sensorConfig cfg s).stepIdx = s.stepIdx ∧
    (sensorConfig cfg s).status = s.status ∧ (sensorConfig cfg s).result = s.result ∧
    (sensorConfig cfg s).tempf = s.tempf ∧ (sensorConfig cfg s).done = s.done ∧
    (sensorConfig cfg s).cfgTmp = s.cfgTmp ∧ (sensorConfig cfg s).rx = s.rx ∧
    (sensorConfig cfg s).wordTmp = s.wordTmp ∧ (sensorConfig cfg s).t16 = s.t16 ∧
    (sensorConfig cfg s).outstanding = s.outstanding ∧ (sensorConfig cfg s).lateRequests = s.lateRequests ∧
    (sensorConfig cfg s).lateDelays = s.lateDelays ∧ (sensorConfig cfg s).devPtr = s.devPtr ∧
    (sensorConfig cfg s).mem = forgetLate s.lateRequests (s.mem.write (configCell s.addr) cfg) ∧
    (sensorConfig cfg s).offers = s.offers ∧ (sensorConfig cfg s).answers = s.answers ∧
    (sensorConfig cfg s).completions = s.completions ∧ (sensorConfig cfg s).agenda = s.agenda ∧
    (sensorConfig cfg s).sent = s.sent ∧ (sensorConfig cfg s).freeCount = s.freeCount :=
  ⟨rfl, rfl, rfl, rfl, rfl, rfl, rfl, rfl, rfl, rfl, rfl, rfl, rfl, rfl, rfl, rfl, rfl, rfl, rfl, rfl, rfl, rfl, rfl, rfl⟩

@[simp] theorem keepBits_fields (a : MicroOp) (s' : State) (s : State) :
    (keepBits a s' s).addr = s.addr ∧ (keepBits a s' s).modeCache = s.modeCache ∧ (keepBits a s' s).seq = s.seq ∧
    (keepBits a s' s).cmd = s.cmd ∧ (keepBits a s' s).stepIdx = s.stepIdx ∧ (keepBits a s' s).status = s.status ∧
    (keepBits a s' s).result = s.result ∧ (keepBits a s' s).tempf = s.tempf ∧ (keepBits a s' s).done = s.done ∧
    (keepBits a s' s).cfgTmp = s.cfgTmp ∧ (keepBits a s' s).rx = s.rx ∧ (keepBits a s' s).wordTmp = s.wordTmp ∧
    (keepBits a s' s).t16 = s.t16 ∧ (keepBits a s' s).outstanding = s.outstanding ∧
    (keepBits a s' s).lateRequests = s.lateRequests ∧ (keepBits a s' s).lateDelays = s.lateDelays ∧
    (keepBits a s' s).devPtr = s.devPtr ∧ (keepBits a s' s).offers = s.offers ∧
    (keepBits a s' s).answers = s.answers ∧ (keepBits a s' s).completions = s.completions ∧
    (keepBits a s' s).agenda = s.agenda ∧ (keepBits a s' s).sent = s.sent :=
  by unfold keepBits; split <;> simp

@[simp] theorem accept_fields (w : Word) (s : State) :
    (accept w s).addr = s.addr ∧ (accept w s).modeCache = s.modeCache ∧ (accept w s).seq = .busy ∧
    (accept w s).cmd = w ∧ (accept w s).stepIdx = 0 ∧ (accept w s).status = 0 ∧ (accept w s).result = 0 ∧
    (accept w s).tempf = 0 ∧ (accept w s).done = s.done ∧ (accept w s).cfgTmp = s.cfgTmp ∧ (accept w s).rx = s.rx ∧
    (accept w s).wordTmp = s.wordTmp ∧ (accept w s).t16 = s.t16 ∧ (accept w s).outstanding = s.outstanding ∧
    (accept w s).lateRequests = s.lateRequests ∧ (accept w s).lateDelays = s.lateDelays ∧
    (accept w s).devPtr = s.devPtr ∧ (accept w s).mem = s.mem ∧ (accept w s).offers = s.offers ∧
    (accept w s).answers = s.answers ∧ (accept w s).completions = s.completions ∧ (accept w s).agenda = s.agenda ∧
    (accept w s).sent = s.sent ∧
    (accept w s).freeCount = s.freeCount :=
  ⟨rfl, rfl, rfl, rfl, rfl, rfl, rfl, rfl, rfl, rfl, rfl, rfl, rfl, rfl, rfl, rfl, rfl, rfl, rfl, rfl, rfl, rfl, rfl, rfl⟩

@[simp] theorem bindSensor_fields (a : BitVec 7) (s : State) :
    (bindSensor a s).addr = s.addr ∧ (bindSensor a s).modeCache = s.modeCache ∧ (bindSensor a s).seq = s.seq ∧
    (bindSensor a s).cmd = s.cmd ∧ (bindSensor a s).stepIdx = s.stepIdx ∧ (bindSensor a s).status = s.status ∧
    (bindSensor a s).result = s.result ∧ (bindSensor a s).tempf = s.tempf ∧ (bindSensor a s).done = s.done ∧
    (bindSensor a s).cfgTmp = s.cfgTmp ∧ (bindSensor a s).rx = s.rx ∧ (bindSensor a s).wordTmp = s.wordTmp ∧
    (bindSensor a s).t16 = s.t16 ∧ (bindSensor a s).outstanding = s.outstanding ∧
    (bindSensor a s).lateRequests = s.lateRequests ∧ (bindSensor a s).lateDelays = s.lateDelays ∧
    (bindSensor a s).devPtr = s.devPtr ∧
    (bindSensor a s).mem = forgetLate s.lateRequests (sensorHolds a s.freeCount s.mem) ∧
    (bindSensor a s).offers = s.offers ∧ (bindSensor a s).answers = s.answers ∧
    (bindSensor a s).completions = s.completions ∧ (bindSensor a s).agenda = s.agenda ∧
    (bindSensor a s).sent = s.sent ∧ (bindSensor a s).freeCount = s.freeCount + 3 :=
  ⟨rfl, rfl, rfl, rfl, rfl, rfl, rfl, rfl, rfl, rfl, rfl, rfl, rfl, rfl, rfl, rfl, rfl, rfl, rfl, rfl, rfl, rfl, rfl, rfl⟩

@[simp] theorem applyReset_fields (a : BitVec 7) (s : State) :
    (applyReset a s).addr = a ∧ (applyReset a s).modeCache = .normal ∧ (applyReset a s).seq = .idle ∧
    (applyReset a s).cmd = 0 ∧ (applyReset a s).stepIdx = 0 ∧ (applyReset a s).status = 0 ∧
    (applyReset a s).result = 0 ∧ (applyReset a s).tempf = 0 ∧ (applyReset a s).done = false ∧
    (applyReset a s).cfgTmp = s.cfgTmp ∧ (applyReset a s).rx = s.rx ∧ (applyReset a s).wordTmp = s.wordTmp ∧
    (applyReset a s).t16 = s.t16 ∧ (applyReset a s).outstanding = none ∧ (applyReset a s).devPtr = .unknown ∧
    (applyReset a s).offers = s.offers ∧ (applyReset a s).agenda = s.agenda ∧
    (applyReset a s).sent = s.sent ∧
    (applyReset a s).freeCount = s.freeCount + 3 :=
  by
  unfold applyReset abandon bindSensor
  repeat' split
  all_goals simp_all

@[simp] theorem receive_read (r : Reg) (bytes : List Byte) (s : State) :
    (receive (.read r) bytes s).rx = bytes ∧ (receive (.read r) bytes s).cfgTmp = bytes.getD 0 0 := ⟨rfl, rfl⟩

@[simp] theorem receive_burst (r : Reg) (bytes : List Byte) (s : State) :
    (receive (.burst r) bytes s).rx = bytes ∧ (receive (.burst r) bytes s).cfgTmp = s.cfgTmp := ⟨rfl, rfl⟩

@[simp] theorem internalEffect_cache (m : Mode) (s : State) : (internalEffect (.cache m) s).modeCache = m := rfl

theorem send_of_none (q : Request) (s : State) (h : s.outstanding = none) :
    send q s = { s with outstanding := some q, sent := s.sent ++ [q] } := by simp [send, h]

theorem send_of_some (q q' : Request) (s : State) (h : s.outstanding = some q') : send q s = s := by simp [send, h]

/-- Where the command's rule keeps no bit, a failure adds nothing to what the request left (R88). -/
theorem keepBits_of_none (a : MicroOp) (s t : State) (h : keptByte a s = none) : keepBits a s t = t := by simp [keepBits, h]

theorem keepBits_of_some (a : MicroOp) (s t : State) (d : Byte) (h : keptByte a s = some d) :
    keepBits a s t = { t with mem := t.mem.write (configCell s.addr) d, freeCount := t.freeCount + 1 } := by
  simp [keepBits, h]

@[simp] theorem keptByte_write_none (r : Reg) (e : ConfigEdit) (s : State) : keptByte (.write r e 0x00) s = none := by
  simp [keptByte]

/-- With no request abandoned, a response is the next one the block takes (R38). -/
theorem takeAnswer_of_none_late (rsp : Response) (s : State) (h : s.lateRequests = []) :
    takeAnswer rsp s = { s with answers := s.answers ++ [rsp] } := by simp [takeAnswer, h]

/-- A response to an abandoned request is discarded (R100). -/
theorem takeAnswer_of_late (rsp : Response) (s : State) (q : TransportRequest) (late : List TransportRequest)
    (h : s.lateRequests = q :: late) : takeAnswer rsp s = { s with lateRequests := late } := by simp [takeAnswer, h]

end Sys2Proof.Machine
end

