-- ==== Sys2Proof/Laws/Ops.lean ====
section
/-! SUPPORT. What the shared operations can do, said once for each: the frame that every part of a command keeps, the three
ends of `issue` and of `run`, and how a sequence is taken up again at its position. -/

namespace Sys2Proof.Machine

/-! ### The frame of a command's run -/

/-- What no part of a command's run changes, and the one cell of memory it may change. -/
structure RunFrame (s t : State) : Prop where
  addr : t.addr = s.addr
  cmd : t.cmd = s.cmd
  lateRequests : t.lateRequests = s.lateRequests
  lateDelays : t.lateDelays = s.lateDelays
  offers : t.offers = s.offers
  agenda : t.agenda = s.agenda
  memOther : ∀ a, a ≠ configCell s.addr → t.mem.read a = s.mem.read a
  memWf : s.mem.wf = true → t.mem.wf = true
  sent : s.sent <+: t.sent
  answers : t.answers <:+ s.answers
  completions : t.completions ≤ s.completions
  /-- without a response of the transport nothing happens at the sensor -/
  sensor : s.answers = [] → t.devPtr = s.devPtr ∧ t.mem = s.mem

theorem RunFrame.refl (s : State) : RunFrame s s where
  addr := rfl
  cmd := rfl
  lateRequests := rfl
  lateDelays := rfl
  offers := rfl
  agenda := rfl
  memOther _ _ := rfl
  memWf h := h
  sent := List.prefix_refl _
  answers := List.suffix_refl _
  completions := le_refl _
  sensor _ := ⟨rfl, rfl⟩

theorem RunFrame.trans {s t u : State} (h : RunFrame s t) (h' : RunFrame t u) : RunFrame s u where
  addr := h'.addr.trans h.addr
  cmd := h'.cmd.trans h.cmd
  lateRequests := h'.lateRequests.trans h.lateRequests
  lateDelays := h'.lateDelays.trans h.lateDelays
  offers := h'.offers.trans h.offers
  agenda := h'.agenda.trans h.agenda
  memOther a ha := (h'.memOther a (by rw [h.addr]; exact ha)).trans (h.memOther a ha)
  memWf hw := h'.memWf (h.memWf hw)
  sent := h.sent.trans h'.sent
  answers := h'.answers.trans h.answers
  completions := h'.completions.trans h.completions
  sensor ha := by
    have ha' : t.answers = [] := List.suffix_nil.1 (ha ▸ h.answers)
    exact ⟨(h'.sensor ha').1.trans (h.sensor ha).1, (h'.sensor ha').2.trans (h.sensor ha).2⟩

theorem memoryAfter_read_other (q : TransportRequest) (rsp : Response) (m : Memory) (a : Nat)
    (h : a ≠ configCell q.addr) : (memoryAfter q rsp m).read a = m.read a := by
  unfold memoryAfter
  repeat' split
  · exact memory_read_write_other _ _ _ _ h
  · exact memory_read_forget_other _ _ _ h
  all_goals rfl

theorem memoryAfter_wf (q : TransportRequest) (rsp : Response) (m : Memory) (h : m.wf = true) :
    (memoryAfter q rsp m).wf = true := by
  unfold memoryAfter
  repeat' split
  · exact memory_wf_write _ _ _ h
  · exact memory_wf_forget _ _ h
  all_goals exact h

/-- A transaction that is no write to Configuration changes no register's known content. -/
theorem memoryAfterOther_wf (q : TransportRequest) (rsp : Response) (m : Memory) (h : m.wf = true) :
    (memoryAfterOther q rsp m).wf = true := by
  unfold memoryAfterOther
  split
  · exact memory_wf_forget _ _ (memory_wf_forget _ _ h)
  · exact memoryAfter_wf q rsp m h

theorem forgetWritten_wf (q : TransportRequest) (m : Memory) (h : m.wf = true) : (forgetWritten q m).wf = true := by
  unfold forgetWritten
  split
  · exact memory_wf_forget _ _ h
  · exact h

theorem forgetLate_wf (late : List TransportRequest) (m : Memory) (h : m.wf = true) : (forgetLate late m).wf = true := by
  induction late generalizing m with
  | nil => exact h
  | cons q late ih => exact ih _ (forgetWritten_wf q m h)

/-- Forgetting makes no byte known. -/
theorem forgetLate_read_none (late : List TransportRequest) (m : Memory) (a : Nat) (hw : m.wf = true)
    (h : m.read a = none) : (forgetLate late m).read a = none := by
  induction late generalizing m with
  | nil => exact h
  | cons q late ih =>
    refine ih _ (forgetWritten_wf q m hw) ?_
    unfold forgetWritten
    split
    · by_cases ha : a = configCell q.addr
      · rw [ha]; exact memory_read_forget_same _ _ hw
      · rw [memory_read_forget_other _ _ _ ha]; exact h
    · exact h

/-- What an abandoned write may still change is unknown (R100). -/
theorem forgetLate_read_config (late : List TransportRequest) (m : Memory) (hw : m.wf = true) (q : TransportRequest)
    (hq : q ∈ late) (hk : q.kind = .write1) (hp : q.ptr = Config.ptrConfig) :
    (forgetLate late m).read (configCell q.addr) = none := by
  induction late generalizing m with
  | nil => simp at hq
  | cons p late ih =>
    rcases List.mem_cons.1 hq with rfl | hq
    · refine forgetLate_read_none late _ _ (forgetWritten_wf q m hw) ?_
      simp [forgetWritten, hk, hp, memory_read_forget_same _ _ hw]
    · exact ih _ (forgetWritten_wf p m hw) hq

theorem forgetWritten_read_other (q : TransportRequest) (m : Memory) (a : Nat)
    (h : q.kind = .write1 → q.ptr = Config.ptrConfig → a ≠ configCell q.addr) : (forgetWritten q m).read a = m.read a := by
  unfold forgetWritten
  split
  · rename_i hq; exact memory_read_forget_other _ _ _ (h hq.1 hq.2)
  · rfl

/-- Abandoned requests leave every byte known but those that they would write. -/
theorem forgetLate_read_other (late : List TransportRequest) (m : Memory) (a : Nat)
    (h : ∀ q ∈ late, q.kind = .write1 → q.ptr = Config.ptrConfig → a ≠ configCell q.addr) :
    (forgetLate late m).read a = m.read a := by
  induction late generalizing m with
  | nil => rfl
  | cons q late ih =>
    rw [forgetLate, ih _ fun p hp => h p (List.mem_cons_of_mem _ hp),
      forgetWritten_read_other q m a (h q (List.mem_cons_self ..))]

theorem memoryAfter_of_kind (q : TransportRequest) (rsp : Response) (m : Memory) (h : q.kind ≠ .write1) :
    memoryAfter q rsp m = m := by
  unfold memoryAfter
  split <;> simp_all

theorem send_frame (q : Request) (s : State) : RunFrame s (send q s) := by
  unfold send
  split
  · exact { RunFrame.refl s with sent := List.prefix_append _ _ }
  · exact RunFrame.refl s

theorem countRequest_frame (s : State) : RunFrame s (countRequest s) := { RunFrame.refl s with }

theorem raiseOutcome_frame (code : OutcomeCode) (x : Byte) (k : BitVec 4) (s : State) :
    RunFrame s (raiseOutcome code x k s) := { RunFrame.refl s with }

theorem returnValue_frame (f : Finish) (s : State) : RunFrame s (returnValue f s) := by
  cases f <;> exact { RunFrame.refl s with }

theorem receive_frame (a : MicroOp) (bytes : List Byte) (s : State) : RunFrame s (receive a bytes s) := by
  cases a <;> exact { RunFrame.refl s with }

theorem internalEffect_frame (a : MicroOp) (s : State) : RunFrame s (internalEffect a s) := by
  cases a <;> exact { RunFrame.refl s with }

/-- The bits a failure keeps touch no byte but Configuration (R69). -/
theorem keepBits_frame (a : MicroOp) (s t : State) (ha : s.answers ≠ []) (h : RunFrame s t) :
    RunFrame s (keepBits a s t) := by
  cases hk : keptByte a s with
  | none => rwa [keepBits_of_none a s t hk]
  | some d =>
    rw [keepBits_of_some a s t d hk]
    exact { h with
      memOther := fun b hb => (memory_read_write_other _ _ _ _ hb).trans (h.memOther b hb)
      memWf := fun hw => memory_wf_write _ _ _ (h.memWf hw)
      sensor := fun ha' => absurd ha' ha }

theorem completeOk_frame (s : State) : RunFrame s (completeOk s) := { RunFrame.refl s with }

/-! ### The ends of `issue` -/

/-- The address that a request carries is the block's, or the request is `BEGIN` (R37). -/
def Addressed (q : Request) (s : State) : Prop :=
  match q with
  | .transport t => t.kind = .begin ∨ t.addr = s.addr
  | .delay _ => True

theorem requestOf_addressed (a : MicroOp) (s : State) (q : Request) (h : requestOf a s = some q) : Addressed q s := by
  cases a <;> simp [requestOf] at h <;> subst h <;>
    simp [Addressed, beginRequest, setPtrRequest, readRequest, writeRequest, settleRequest]

/-- What a request with its response leaves, before an outcome is raised or the bytes are used (R52). -/
def answered (q : Request) (s : State) : State :=
  match q with
  | .transport t =>
    match s.answers with
    | [] => s
    | rsp :: rest => countRequest (transact t rsp { send q s with answers := rest })
  | .delay _ => countRequest { send q s with completions := s.completions - 1 }

theorem answered_frame (q : Request) (s : State) (h : Addressed q s) : RunFrame s (answered q s) := by
  cases q with
  | delay ms => exact { send_frame (.delay ms) s with completions := by simp [answered] }
  | transport t =>
    cases hans : s.answers with
    | nil => simpa [answered, hans] using RunFrame.refl s
    | cons rsp rest =>
      have he : answered (.transport t) s = countRequest (transact t rsp { send (.transport t) s with answers := rest }) := by
        simp [answered, hans]
      rw [he]
      exact { send_frame (.transport t) s with
        memOther := fun a ha => by
          rcases h with h | h
          · simp [memoryAfter, h]
          · simpa using memoryAfter_read_other t rsp s.mem a (by rw [h]; exact ha)
        memWf := fun hw => by simpa using memoryAfter_wf t rsp s.mem hw
        answers := by simp [hans]
        sensor := fun h' => absurd h' (by simp [hans]) }

/-- Everything `issue` can do (R52): wait with the request sent; return with the bytes of a reply; raise BUS_ERR with a
status that is not 0, or NO_DATA, at the index the request had. -/
theorem issue_cases (q : Request) (s : State) :
    (issue q s = .waiting (send q s) ∧
        match q with | .transport _ => s.answers = [] | .delay _ => s.completions = 0) ∨
    (∃ bytes, issue q s = .returned bytes (answered q s) ∧
        match q with
        | .transport t => ∃ rsp rest, s.answers = rsp :: rest ∧ reply t rsp = .returned bytes
        | .delay _ => bytes = [] ∧ s.completions ≠ 0) ∨
    (∃ t rsp rest xs, q = .transport t ∧ s.answers = rsp :: rest ∧ reply t rsp = .busError xs ∧
        issue q s = .raised (raiseOutcome .busErr xs s.stepIdx (answered q s))) ∨
    (∃ t rsp rest, q = .transport t ∧ s.answers = rsp :: rest ∧ reply t rsp = .noData ∧
        issue q s = .raised (raiseOutcome .noData 0 s.stepIdx (answered q s))) := by
  cases q with
  | transport t =>
    cases hans : s.answers with
    | nil => exact .inl (by simp [issue, hans])
    | cons rsp rest =>
      right
      cases hr : reply t rsp with
      | returned bytes =>
        exact .inl ⟨bytes, by simp [issue, hans, settleTransport, hr, answered], rsp, rest, rfl, hr⟩
      | busError xs =>
        exact .inr (.inl ⟨t, rsp, rest, xs, rfl, rfl, hr, by simp [issue, hans, settleTransport, hr, answered]⟩)
      | noData =>
        exact .inr (.inr ⟨t, rsp, rest, rfl, rfl, hr, by simp [issue, hans, settleTransport, hr, answered]⟩)
  | delay ms =>
    cases hc : s.completions with
    | zero => exact .inl (by simp [issue, hc])
    | succ n => exact .inr (.inl ⟨[], by simp [issue, hc, answered], rfl, by simp⟩)

/-- A bus error has a status that is not 0 (R85). -/
theorem reply_busError_ne (q : TransportRequest) (rsp : Response) (xs : Byte) (h : reply q rsp = .busError xs) :
    xs ≠ 0 ∧ xs = rsp.xstatus := by
  unfold reply at h
  repeat' split at h
  all_goals cases h
  all_goals exact ⟨by assumption, rfl⟩

/-- What a reply returns (R52): at most as many bytes as the request asked for. -/
theorem reply_returned_length (q : TransportRequest) (rsp : Response) (bytes : List Byte)
    (h : reply q rsp = .returned bytes) : bytes.length ≤ q.count.toNat := by
  unfold reply at h
  repeat' split at h
  all_goals cases h
  all_goals simp

/-! ### The run of a sequence -/

theorem run_nil (f : Finish) (s : State) : run f [] s = completeOk (returnValue f s) := rfl

theorem run_internal (f : Finish) (a : MicroOp) (rest : List MicroOp) (s : State) (h : requestOf a s = none) :
    run f (a :: rest) s = run f rest (internalEffect a s) := by
  simp [run, h]

theorem run_request (f : Finish) (a : MicroOp) (rest : List MicroOp) (s : State) (q : Request)
    (h : requestOf a s = some q) :
    run f (a :: rest) s =
      match issue q s with
      | .waiting s' => s'
      | .raised s' => keepBits a s s'
      | .returned bytes s' => run f rest (receive a bytes s') := by
  cases hi : issue q s <;> simp [run, h, hi]

/-- The frame of every run. -/
theorem run_frame (f : Finish) (as : List MicroOp) (s : State) : RunFrame s (run f as s) := by
  induction as generalizing s with
  | nil => exact (returnValue_frame f s).trans (completeOk_frame _)
  | cons a rest ih =>
    cases hq : requestOf a s with
    | none => rw [run_internal f a rest s hq]; exact (internalEffect_frame a s).trans (ih _)
    | some q =>
      rw [run_request f a rest s q hq]
      have ha := requestOf_addressed a s q hq
      rcases issue_cases q s with ⟨h, -⟩ | ⟨bytes, h, -⟩ | ⟨t, rsp, r, xs, -, hans, -, h⟩ | ⟨t, rsp, r, -, hans, -, h⟩ <;>
        simp only [h]
      · exact send_frame q s
      · exact (answered_frame q s ha).trans ((receive_frame a bytes _).trans (ih _))
      · exact keepBits_frame a s _ (by simp [hans]) ((answered_frame q s ha).trans (raiseOutcome_frame _ _ _ _))
      · exact keepBits_frame a s _ (by simp [hans]) ((answered_frame q s ha).trans (raiseOutcome_frame _ _ _ _))

/-- The sequence writes the cache somewhere. -/
def hasCache (as : List MicroOp) : Bool := as.any fun a => !isRequest a

/-- An action issues a request exactly when `isRequest` says so. -/
theorem requestOf_isSome (a : MicroOp) (s : State) : (requestOf a s).isSome = isRequest a := by cases a <;> rfl

/-- A run of a sequence without a cache write leaves the cache (R7). -/
theorem run_modeCache (f : Finish) (as : List MicroOp) (s : State) (h : hasCache as = false) :
    (run f as s).modeCache = s.modeCache := by
  induction as generalizing s with
  | nil => simp [run_nil]
  | cons a rest ih =>
    simp [hasCache] at h
    have hs := requestOf_isSome a s
    obtain ⟨q, hq⟩ : ∃ q, requestOf a s = some q := by
      rw [h.1] at hs; exact Option.isSome_iff_exists.1 hs
    have hc : (answered q s).modeCache = s.modeCache := by
      cases q <;> simp only [answered] <;> (try split) <;> simp
    have ih' := fun s => ih s (by simpa [hasCache] using h.2)
    rw [run_request f a rest s q hq]
    rcases issue_cases q s with ⟨h, -⟩ | ⟨bytes, h, -⟩ | ⟨t, rsp, r, xs, -, -, -, h⟩ | ⟨t, rsp, r, -, -, -, h⟩ <;>
      simp [h, hc, ih']

/-- The number of requests a sequence issues. -/
def requestCount (as : List MicroOp) : Nat := as.countP isRequest

theorem afterRequests_append (pre : List MicroOp) (a : MicroOp) (rest : List MicroOp) (h : isRequest a = true) :
    fromNextRequest (afterRequests (requestCount pre) (pre ++ a :: rest)) = a :: rest := by
  induction pre with
  | nil => simp [requestCount, afterRequests, fromNextRequest, h]
  | cons b pre ih =>
    cases hb : isRequest b with
    | true => simpa [requestCount, hb, afterRequests] using ih
    | false =>
      have hc : requestCount (b :: pre) = requestCount pre := by simp [requestCount, hb]
      rw [hc]
      cases hk : requestCount pre with
      | zero => simpa [hk, afterRequests, fromNextRequest, hb] using ih
      | succ k => simpa [hk, afterRequests, hb] using ih

/-- What a run leaves as it was until it completes. -/
structure Quiet (s u : State) : Prop where
  seq : u.seq = s.seq
  status : u.status = s.status
  result : u.result = s.result
  tempf : u.tempf = s.tempf
  done : u.done = s.done
  rx : s.rx.length ≤ 2 → u.rx.length ≤ 2

theorem Quiet.refl (s : State) : Quiet s s := ⟨rfl, rfl, rfl, rfl, rfl, id⟩

theorem Quiet.trans {s t u : State} (h : Quiet s t) (h' : Quiet t u) : Quiet s u :=
  ⟨h'.seq.trans h.seq, h'.status.trans h.status, h'.result.trans h.result, h'.tempf.trans h.tempf,
    h'.done.trans h.done, fun x => h'.rx (h.rx x)⟩

theorem send_quiet (q : Request) (s : State) : Quiet s (send q s) := by constructor <;> simp

theorem internalEffect_quiet (a : MicroOp) (s : State) : Quiet s (internalEffect a s) := by constructor <;> simp

theorem answered_quiet (q : Request) (s : State) : Quiet s (answered q s) := by
  unfold answered
  split
  · split <;> constructor <;> simp
  · constructor <;> simp

theorem receive_quiet (a : MicroOp) (bytes : List Byte) (s : State) (h : bytes.length ≤ 2) :
    Quiet s (receive a bytes s) := by
  constructor <;> (try simp)
  intro hs
  cases a <;> simp [receive, h, hs]

/-- A request that has its response counts one, and none is outstanding (R52). -/
theorem answered_counts (q : Request) (s : State)
    (h : match q with | .transport _ => s.answers ≠ [] | .delay _ => True) :
    (answered q s).outstanding = none ∧ (answered q s).stepIdx = s.stepIdx + 1 := by
  unfold answered
  split
  · split
    · simp_all
    · simp
  · simp

theorem returned_length (a : MicroOp) (s : State) (t : TransportRequest) (rsp : Response) (bytes : List Byte)
    (hq : requestOf a s = some (.transport t)) (hr : reply t rsp = .returned bytes) : bytes.length ≤ 2 := by
  have hl := reply_returned_length t rsp bytes hr
  have : t.count.toNat ≤ 2 := by
    cases a <;> simp [requestOf, beginRequest, setPtrRequest, readRequest, writeRequest, settleRequest] at hq <;>
      subst hq <;> simp
  omega

/-- The three ends of a run that stands at its position in the sequence `pre ++ as` (R51, R52): it waits for a request of
the sequence, and stands at its position; it has come to the end; it has raised BUS_ERR or NO_DATA. -/
inductive RunEnd (f : Finish) (whole : List MicroOp) (s : State) : State → Prop where
  | waits (t : State) (pre : List MicroOp) (a : MicroOp) (rest : List MicroOp) (q : Request) (hw : whole = pre ++ a :: rest)
      (hq : requestOf a t = some q) (ho : t.outstanding = some q) (hs : t.stepIdx.toNat = requestCount pre)
      (hl : t.sent.getLast? = some q) (hge : s.stepIdx.toNat ≤ t.stepIdx.toNat) (quiet : Quiet s t) : RunEnd f whole s t
  | ends (u : State) (ho : u.outstanding = none) (hs : u.stepIdx.toNat = requestCount whole) (quiet : Quiet s u) :
      RunEnd f whole s (completeOk (returnValue f u))
  | busErr (u : State) (a : MicroOp) (v : State) (xs : Byte) (k : BitVec 4) (hx : xs ≠ 0) (hs : u.stepIdx = k + 1) (hk : k.toNat < requestCount whole)
      (quiet : Quiet s u) : RunEnd f whole s (keepBits a v (raiseOutcome .busErr xs k u))
  | noData (u : State) (a : MicroOp) (v : State) (k : BitVec 4) (hs : u.stepIdx = k + 1) (hk : k.toNat < requestCount whole)
      (quiet : Quiet s u) : RunEnd f whole s (keepBits a v (raiseOutcome .noData 0 k u))

theorem RunEnd.of_quiet {f : Finish} {whole : List MicroOp} {s s' t : State} (hq : Quiet s s')
    (hle : s.stepIdx.toNat ≤ s'.stepIdx.toNat) (h : RunEnd f whole s' t) : RunEnd f whole s t := by
  cases h with
  | waits _ pre a rest q hw hq' ho hs hl hge quiet =>
    exact .waits t pre a rest q hw hq' ho hs hl (hle.trans hge) (hq.trans quiet)
  | ends u ho hs quiet => exact .ends u ho hs (hq.trans quiet)
  | busErr u a v xs k hx hs hk quiet => exact .busErr u a v xs k hx hs hk (hq.trans quiet)
  | noData u a v k hs hk quiet => exact .noData u a v k hs hk (hq.trans quiet)

/-- A state whose block stands before `as` in a sequence: nothing is outstanding, or the first request of `as` is, and it
was sent last. -/
def StandsBefore (as : List MicroOp) (s : State) : Prop :=
  s.outstanding = none ∨
    ∃ a rest q, as = a :: rest ∧ requestOf a s = some q ∧ s.outstanding = some q ∧ s.sent.getLast? = some q

/-- Everything a run can do. -/
theorem run_cases (f : Finish) (pre as : List MicroOp) (s : State) (hk : s.stepIdx.toNat = requestCount pre)
    (hc : requestCount (pre ++ as) < 16) (hs : StandsBefore as s) : RunEnd f (pre ++ as) s (run f as s) := by
  induction as generalizing pre s with
  | nil =>
    have ho : s.outstanding = none := by
      rcases hs with h | ⟨a, rest, q, h, -⟩
      · exact h
      · simp at h
    exact .ends s ho (by simpa using hk) (Quiet.refl s)
  | cons a rest ih =>
    cases hq : requestOf a s with
    | none =>
      have hr : isRequest a = false := by rw [← requestOf_isSome a s, hq]; rfl
      have ho : s.outstanding = none := by
        rcases hs with h | ⟨b, r, q, h, h', -⟩
        · exact h
        · simp only [List.cons.injEq] at h
          rw [← h.1, hq] at h'
          simp at h'
      rw [run_internal f a rest s hq]
      have := ih (pre ++ [a]) (internalEffect a s) (by simpa [requestCount, hr] using hk) (by simpa using hc)
        (.inl (by simpa using ho))
      exact RunEnd.of_quiet (internalEffect_quiet a s) (by simp) (by simpa using this)
    | some q =>
      have hr : isRequest a = true := by rw [← requestOf_isSome a s, hq]; rfl
      have hlt : s.stepIdx.toNat < requestCount (pre ++ a :: rest) := by
        simp [requestCount, hr] at hk ⊢; omega
      rw [run_request f a rest s q hq]
      rcases issue_cases q s with ⟨h, -⟩ | ⟨bytes, h, hb⟩ | ⟨t, rsp, r, xs, rfl, ha, hx, h⟩ | ⟨t, rsp, r, rfl, ha, hx, h⟩ <;>
        simp only [h]
      · have hq' : requestOf a (send q s) = some q := by (cases a <;> simp_all [requestOf])
        refine .waits _ pre a rest q rfl hq' ?_ (by simpa using hk) ?_ (by simp) (send_quiet q s)
        · rcases hs with ho | ⟨b, r, q', hcons, hb, ho, -⟩
          · simp [send, ho]
          · simp only [List.cons.injEq] at hcons
            rw [← hcons.1, hq] at hb
            simp [send, ho, hb]
        · rcases hs with ho | ⟨b, r, q', hcons, hb, ho, hl⟩
          · simp [send, ho]
          · simp only [List.cons.injEq] at hcons
            rw [← hcons.1, hq] at hb
            simp [send, ho, hb, hl]
      · have hlen : bytes.length ≤ 2 := by
          cases q with
          | transport t => obtain ⟨rsp, r, -, hrep⟩ := hb; exact returned_length a s t rsp bytes hq hrep
          | delay ms => simp [hb.1]
        have hcount := answered_counts q s (by
          cases q with
          | transport t => obtain ⟨rsp, r, ha, -⟩ := hb; simp [ha]
          | delay ms => trivial)
        have hk' : (receive a bytes (answered q s)).stepIdx.toNat = requestCount (pre ++ [a]) := by
          have h1 : requestCount (pre ++ [a]) = requestCount pre + 1 := by simp [requestCount, hr]
          have h2 : requestCount (pre ++ [a]) ≤ requestCount (pre ++ a :: rest) := by
            simp [requestCount, hr]
          simp only [receive_fields, hcount.2, BitVec.toNat_add, hk, h1]
          simp; omega
        have := ih (pre ++ [a]) (receive a bytes (answered q s)) hk' (by simpa using hc) (.inl (by simp [hcount.1]))
        refine RunEnd.of_quiet ((answered_quiet q s).trans (receive_quiet a bytes _ hlen)) ?_ (by simpa using this)
        rw [hk', hk]
        simp [requestCount, hr]
      · exact .busErr _ a s xs _ (reply_busError_ne t rsp xs hx).1 (answered_counts (.transport t) s (by simp [ha])).2 hlt
          (answered_quiet _ s)
      · exact .noData _ a s _ (answered_counts (.transport t) s (by simp [ha])).2 hlt (answered_quiet _ s)

end Sys2Proof.Machine
end

