-- ==== Sys2Proof/Laws/Exec.lean ====
section
/-! SUPPORT. Every command is `runCommand` on its sequence, and from an accepted state or a state of the invariant the run
stands at a position of that sequence: the one inversion lemma of `exec`. -/

namespace Sys2Proof.Machine

/-- Every meaning is the shared run of its sequence. -/
theorem exec_eq_runCommand (i : Instr) (s : State) :
    exec i s = .next (runCommand (sequenceOf i s.modeCache) (finishOf i) s) := by
  cases i <;> rfl

theorem exec_next_eq {i : Instr} {s t : State} (h : exec i s = .next t) :
    t = runCommand (sequenceOf i s.modeCache) (finishOf i) s := by
  rw [exec_eq_runCommand] at h
  cases h
  rfl

/-- The frame of every command (R6, R33, R35, R49). -/
theorem exec_runFrame {i : Instr} {s t : State} (h : exec i s = .next t) : RunFrame s t := by
  rw [exec_next_eq h]
  exact run_frame _ _ _

theorem afterRequests_zero (as : List MicroOp) : afterRequests 0 as = as := by cases as <;> rfl

theorem fromNextRequest_split (as : List MicroOp) (a : MicroOp) (rest : List MicroOp)
    (h : fromNextRequest as = a :: rest) :
    ∃ pre, as = pre ++ a :: rest ∧ requestCount pre = 0 ∧ isRequest a = true := by
  induction as with
  | nil => simp [fromNextRequest] at h
  | cons b as ih =>
    simp only [fromNextRequest] at h
    split at h
    · rename_i hb
      simp only [List.cons.injEq] at h
      obtain ⟨rfl, rfl⟩ := h
      exact ⟨[], rfl, rfl, hb⟩
    · rename_i hb
      obtain ⟨pre, h1, h2, h3⟩ := ih h
      exact ⟨b :: pre, by simp [h1], by simpa [requestCount, hb] using h2, h3⟩

theorem afterRequests_split (k : Nat) (as : List MicroOp) (h : afterRequests k as ≠ []) :
    ∃ pre, as = pre ++ afterRequests k as ∧ requestCount pre = k := by
  induction as generalizing k with
  | nil => cases k <;> simp [afterRequests] at h
  | cons b as ih =>
    cases k with
    | zero => exact ⟨[], by simp [afterRequests], rfl⟩
    | succ k =>
      simp only [afterRequests] at h ⊢
      split
      · rename_i hb
        simp only [hb, if_true] at h
        obtain ⟨pre, h1, h2⟩ := ih k h
        exact ⟨b :: pre, by simpa using h1, by simp [requestCount, hb] at h2 ⊢; exact h2⟩
      · rename_i hb
        simp only [hb] at h
        obtain ⟨pre, h1, h2⟩ := ih _ h
        exact ⟨b :: pre, by simpa using h1, by simp [requestCount, hb] at h2 ⊢; exact h2⟩

/-- The part of a sequence from the request at position `k` on, and the part before it, which issues `k` requests. -/
theorem position_split (k : Nat) (as : List MicroOp) (a : MicroOp) (rest : List MicroOp)
    (h : fromNextRequest (afterRequests k as) = a :: rest) :
    ∃ pre, as = pre ++ a :: rest ∧ requestCount pre = k ∧ isRequest a = true := by
  obtain ⟨p1, h1, h2, h3⟩ := fromNextRequest_split _ _ _ h
  obtain ⟨p0, h4, h5⟩ := afterRequests_split k as (by intro h0; rw [h0] at h; simp [fromNextRequest] at h)
  refine ⟨p0 ++ p1, by rw [h4, h1]; simp, ?_, h3⟩
  unfold requestCount at *
  rw [List.countP_append]
  omega

/-- What is left of a sequence is part of it. -/
theorem remaining_subset (as : List MicroOp) (s : State) (a : MicroOp) (h : a ∈ remaining as s) : a ∈ as := by
  have after : ∀ k, ∀ b ∈ afterRequests k as, b ∈ as := by
    intro k b hb
    obtain ⟨pre, h1, -⟩ := afterRequests_split k as (List.ne_nil_of_mem hb)
    rw [h1]
    exact List.mem_append_right _ hb
  unfold remaining at h
  split at h
  · exact after _ a h
  · cases hf : fromNextRequest (afterRequests s.stepIdx.toNat as) with
    | nil => simp [hf] at h
    | cons b rest =>
      obtain ⟨pre, h1, -⟩ := position_split _ _ _ _ hf
      rw [hf] at h
      rw [h1]
      exact List.mem_append_right _ h

/-- The longest command issues 8 requests (R8). -/
theorem requestCount_sequenceOf_le (i : Instr) (m : Mode) : requestCount (sequenceOf i m) ≤ 8 := by
  cases i <;> cases m <;> exact Nat.le_of_ble_eq_true rfl

/-- A command that leaves the cache has no cache write in its sequence (R7). -/
theorem hasCache_sequenceOf (i : Instr) (m : Mode) (h : writesCache i = false) : hasCache (sequenceOf i m) = false := by
  cases i <;> simp_all [writesCache] <;> (try rfl)
  cases m <;> rfl

/-- A BUSY block that stands in command `i`: just accepted, or as the invariant says. -/
abbrev StandsIn (i : Instr) (s : State) : Prop :=
  (s.stepIdx = 0 ∧ s.outstanding = none) ∨ (MachineInv s ∧ s.seq = .busy ∧ decode s.cmd = .ok i)

theorem standsIn_position (i : Instr) (s : State) (h : StandsIn i s) :
    ∃ pre as, sequenceOf i s.modeCache = pre ++ as ∧ remaining (sequenceOf i s.modeCache) s = as ∧
      s.stepIdx.toNat = requestCount pre ∧ StandsBefore as s := by
  have accepted : s.stepIdx = 0 → s.outstanding = none → ∃ pre as, sequenceOf i s.modeCache = pre ++ as ∧
      remaining (sequenceOf i s.modeCache) s = as ∧ s.stepIdx.toNat = requestCount pre ∧ StandsBefore as s := fun h2 h3 =>
    ⟨[], sequenceOf i s.modeCache, rfl, by unfold remaining; rw [h3, h2]; exact afterRequests_zero _,
      by simp [h2, requestCount], .inl h3⟩
  rcases h with ⟨h2, h3⟩ | ⟨hi, hb, hd⟩
  · exact accepted h2 h3
  · obtain ⟨-, -, -, ⟨ho, hs⟩ | ⟨j, q, hj, ho, hr, hl⟩⟩ := hi.busy hb
    · exact accepted hs ho
    rw [hd] at hj
    cases hj
    unfold requestAt at hr
    split at hr
    · simp at hr
    · rename_i a rest hf
      obtain ⟨pre, h1, h2, -⟩ := position_split _ _ _ _ hf
      refine ⟨pre, a :: rest, h1, by simp [remaining, ho, hf], h2.symm,
        .inr ⟨a, rest, q, rfl, ?_, by simpa using ho, by simpa using hl⟩⟩
      cases a <;> simp_all [requestOf]

/-- Everything a command can do from where the block stands in it. -/
theorem exec_cases (i : Instr) (s t : State) (h : StandsIn i s) (he : exec i s = .next t) :
    RunEnd (finishOf i) (sequenceOf i s.modeCache) s t := by
  obtain ⟨pre, as, h1, h2, h3, h4⟩ := standsIn_position i s h
  rw [exec_next_eq he, runCommand, h2, h1]
  exact run_cases _ _ _ _ h3 (by rw [← h1]; have := requestCount_sequenceOf_le i s.modeCache; omega) h4

end Sys2Proof.Machine
end

