-- ==== Sys2Proof/Laws/PerInstr.lean ====
section
/-! SUPPORT. The family of laws that hold of every command as syntax, one lemma for each constructor. -/

namespace Sys2Proof.Laws

/-- The word of a command is legal: its row of the opcode table is the word's (R46). -/
def EncodesLegally.Statement (i : Instr) : Prop := legal (encode i) = true

theorem EncodesLegally.init : EncodesLegally.Statement .init := rfl

theorem EncodesLegally.initRes (res : BitVec 2) : EncodesLegally.Statement (.initRes res) := by
  unfold EncodesLegally.Statement
  revert res
  decide

theorem EncodesLegally.initResMode (res : BitVec 2) (m : Mode) : EncodesLegally.Statement (.initResMode res m) := by
  unfold EncodesLegally.Statement
  cases m <;> revert res <;> decide

theorem EncodesLegally.getcfg : EncodesLegally.Statement .getcfg := rfl

theorem EncodesLegally.setcfg (data : Byte) : EncodesLegally.Statement (.setcfg data) := by
  unfold EncodesLegally.Statement
  revert data
  decide

theorem EncodesLegally.getres : EncodesLegally.Statement .getres := rfl

theorem EncodesLegally.setres (res : BitVec 2) : EncodesLegally.Statement (.setres res) := by
  unfold EncodesLegally.Statement
  revert res
  decide

theorem EncodesLegally.getmode : EncodesLegally.Statement .getmode := rfl

theorem EncodesLegally.setmode (m : Mode) : EncodesLegally.Statement (.setmode m) := by
  cases m <;> rfl

theorem EncodesLegally.readtemp : EncodesLegally.Statement .readtemp := rfl

end Sys2Proof.Laws
end

