-- ==== Sys2Proof/Tests/Slice0.lean ====
section
/-! SUPPORT. Tests whose expected values come from spec/95_test_vectors.md (the vector is named in each comment) and, for each
statement with hypotheses, a concrete state and operands that meet them all. -/

open Sys2Proof Sys2Proof.Machine

/-! ### Well-formedness: an ill-formed line for each check (R47) -/

theorem test_resolution_below_nine_refused : Asm.wellFormed (.initRes 8) = false := by decide

theorem test_resolution_above_twelve_refused : Asm.wellFormed (.setres 13) = false := by decide

theorem test_init_res_mode_resolution_refused : Asm.wellFormed (.initResMode 13 .normal) = false := by decide

theorem test_byte_above_ff_refused : Asm.wellFormed (.setcfg 0x100) = false := by decide

/-- 95 section 2.1: the assembler's examples. -/
theorem test_assembler_words :
    [Asm.initRes 12, .initResMode 11 .shutdown, .setres 9, .setcfg 0xA5, .setmode .normal, .setres 13].map assemble =
      [some 0x2300, some 0x3201, some 0x7000, some 0x50A5, some 0x9000, none] := by decide

theorem test_assembler_tokens :
    Asm.ofTokens "INIT_RES_MODE" [.number 11, .name "SHUTDOWN"] = some (.initResMode 11 .shutdown) ∧
      Asm.ofTokens "SETMODE" [.number 1] = none := by decide

/-! ### Decoding: one word of each command, from the diagram of R39 -/

theorem test_decode_init : decode 0b0001_00_00_00000000 = .ok .init := by decide

theorem test_decode_init_res : decode 0b0010_00_11_00000000 = .ok (.initRes 3) := by decide

theorem test_decode_init_res_mode : decode 0b0011_00_10_00000001 = .ok (.initResMode 2 .shutdown) := by decide

theorem test_decode_getcfg : decode 0b0100_00_00_00000000 = .ok .getcfg := by decide

theorem test_decode_setcfg : decode 0b0101_00_00_10100101 = .ok (.setcfg 0xA5) := by decide

theorem test_decode_getres : decode 0b0110_00_00_00000000 = .ok .getres := by decide

theorem test_decode_setres : decode 0b0111_00_01_00000000 = .ok (.setres 1) := by decide

theorem test_decode_getmode : decode 0b1000_00_00_00000000 = .ok .getmode := by decide

theorem test_decode_setmode : decode 0b1001_00_00_00000001 = .ok (.setmode .shutdown) := by decide

theorem test_decode_readtemp : decode 0b1010_00_00_00000000 = .ok .readtemp := by decide

/-- 95 section 2.1: the illegal words. -/
theorem test_illegal_words :
    ([0x0000, 0x1001, 0x1100, 0x2400, 0x2301, 0x3202, 0x5160, 0x5860, 0x7400, 0x7301, 0x9002, 0x9101, 0xA800, 0xB000,
      0xF123, 0xFFFF] : List Word).all (fun w => (decode w).toOption.isNone && !legal w) = true := by decide

theorem test_table_word : decodeTableWord 16 0x3201 = some (.initResMode 2 .shutdown) := by decide

/-- No two rows of the opcode table overlap (R46). -/
theorem test_rows_disjoint :
    opcodeRows.Pairwise fun r r' => (r.pattern ^^^ r'.pattern) &&& (r.mask &&& r'.mask) ≠ 0 := by decide

/-! ### The decoder (45_temperature.md), both values of `P_CDIV` -/

/-- `T16`, and TEMPF under EXACT and TRUNC, of two bytes. -/
def decoded (b0 b1 : Byte) : Word × BitVec 32 × BitVec 32 :=
  (t16Of (assembleWord b0 b1), fahrenheit32 .exact (t16Of (assembleWord b0 b1)),
    fahrenheit32 .trunc (t16Of (assembleWord b0 b1)))

/-- E1, E2 and E3: the source's worked examples. -/
theorem test_decoder_source_examples :
    decoded 0x19 0x00 = (0x0190, 0x429A0000, 0x429A0000) ∧ decoded 0xC8 0x00 = (0xFC80, 0xC289999A, 0xC289999A) ∧
      decoded 0x00 0x00 = (0x0000, 0x42000000, 0x42000000) ∧ decoded 0x64 0x00 = (0x0640, 0x43540000, 0x43540000) ∧
      decoded 0xD8 0x00 = (0xFD80, 0xC2200000, 0xC2200000) := by decide

/-- V63, V67, V74, V81: the two values of `P_CDIV` differ. -/
theorem test_decoder_fractions :
    decoded 0x19 0x10 = (0x0191, 0x429A399A, 0x429A0000) ∧ decoded 0x00 0x10 = (0x0001, 0x42007333, 0x42000000) ∧
      decoded 0x0C 0x80 = (0x00C8, 0x425A0000, 0x42566666) ∧ decoded 0xF6 0x90 = (0xFF69, 0x41703333, 0x417CCCCD) := by
  decide

/-- V61, V75, V76, V78: the low nibble is ignored; the extremes; a small negative value. -/
theorem test_decoder_extremes :
    decoded 0x19 0x0F = (0x0190, 0x429A0000, 0x429A0000) ∧ decoded 0x7F 0xF0 = (0x07FF, 0x438324CD, 0x43824CCD) ∧
      decoded 0x80 0x00 = (0xF800, 0xC3466666, 0xC3466666) ∧ decoded 0xFF 0xFF = (0xFFFF, 0x41FF199A, 0x42000000) := by
  decide

/-! ### One step of each command -/

/-- A machine right after reset that is offered `w`, with the responses `rs` to come and one completion of a delay. -/
def offered (w : Word) (rs : List Response) (m : Mode) : State :=
  { State.reset with offers := [w], answers := rs, completions := 1, modeCache := m }

/-- The same block when it has just accepted `w` (R49, R50). -/
def accepted (w : Word) (rs : List Response) (m : Mode) : State :=
  { State.reset with cmd := w, seq := .busy, answers := rs, modeCache := m, completions := 1 }

/-- A field of the next state, if there is one. -/
def after {α : Type} (s : State) (f : State → α) : Option α :=
  match step s with
  | .next t => some (f t)
  | .fault _ => none
  | .refused _ => none

/-- Status 0 and no byte. -/
def good : Response := ⟨0, []⟩

/-- Status 0 and one byte. -/
def byte (c : Byte) : Response := ⟨0, [c]⟩

/-- A status that is not 0. -/
def bad (xs : Byte) : Response := ⟨xs, []⟩

/-- What is known of the Configuration of the sensor at 0x48. -/
def config48 (s : State) : Option Byte := s.mem.read (configCell 0x48)

/-- R49: acceptance is a step of its own, and leaves the block BUSY. -/
theorem test_acceptance : step (offered 0x8000 [good] .shutdown) = .next (accepted 0x8000 [good] .shutdown) := rfl

/-- V30 -/
theorem test_init : after (accepted 0x1000 [good, good] .shutdown) (fun t => (t.status, t.modeCache, t.sent.length)) =
    some (0x0000, .normal, 2) := by decide

/-- V31 -/
theorem test_init_fails : after (accepted 0x1000 [good, bad 4] .shutdown) (fun t => (t.status, t.modeCache)) =
    some (0x0411, .normal) := by decide

/-- V32 -/
theorem test_init_res :
    after (accepted 0x2000 [good, byte 0xFF, good, good, good] .shutdown) (fun t => (t.status, config48 t, t.modeCache)) =
      some (0x0000, some 0x9F, .normal) := by decide

/-- V34 -/
theorem test_init_res_no_data : after (accepted 0x2300 [good, good] .normal) (fun t => (t.status, t.sent.length)) =
    some (0x0012, 2) := by decide

/-- V35 -/
theorem test_init_res_mode :
    after (accepted 0x3201 [good, byte 0x00, good, good, byte 0x40, good, good, good] .normal)
      (fun t => (t.status, config48 t, t.modeCache, t.stepIdx, t.devPtr)) =
      some (0x0000, some 0x41, .shutdown, 8, .known .temp) := by decide

/-- V38 -/
theorem test_init_res_mode_no_data :
    after (accepted 0x3201 [good, byte 0x00, good, good, good] .normal) (fun t => (t.status, config48 t, t.modeCache)) =
      some (0x0042, some 0x40, .shutdown) := by decide

/-- V52 -/
theorem test_getcfg : after (accepted 0x4000 [byte 0x81, good] .normal) (fun t => (t.status, t.result, t.modeCache)) =
    some (0x0000, 0x0081, .normal) := by decide

/-- V53 -/
theorem test_getcfg_fails : after (accepted 0x4000 [byte 0x61, bad 3] .normal) (fun t => (t.status, t.result)) =
    some (0x0311, 0x0000) := by decide

/-- V56 -/
theorem test_setcfg : after (accepted 0x5001 [good, good] .normal) (fun t => (t.status, config48 t, t.modeCache)) =
    some (0x0000, some 0x01, .normal) := by decide

/-- V57 -/
theorem test_setcfg_fails : after (accepted 0x5060 [bad 2] .normal) (fun t => (t.status, t.sent.length)) =
    some (0x0201, 1) := by decide

/-- E4: Configuration 0x41 has 11 bits. -/
theorem test_getres : after (accepted 0x6000 [byte 0x41, good] .normal) (fun t => (t.status, t.result)) =
    some (0x0000, 0x000B) := by decide

/-- R66's example: 0xE1 becomes 0xA1. -/
theorem test_setres : after (accepted 0x7100 [byte 0xE1, good, good] .normal) (fun t => (t.status, config48 t)) =
    some (0x0000, some 0xA1) := by decide

/-- 95 section 2.5: NO_DATA at STEP 0, and no write. -/
theorem test_setres_no_data : after (accepted 0x7300 [good] .normal) (fun t => (t.status, t.sent.length)) =
    some (0x0002, 1) := by decide

/-- R68 -/
theorem test_getmode : after (accepted 0x8000 [] .shutdown) (fun t => (t.status, t.result, t.sent, t.done)) =
    some (0x0000, 0x0001, [], true) := by decide

/-- 95 section 2.6: 0x61 with M = 0 becomes 0x60. -/
theorem test_setmode : after (accepted 0x9000 [byte 0x61, good, good] .shutdown) (fun t => (config48 t, t.modeCache)) =
    some (some 0x60, .normal) := by decide

/-- 95 section 2.6: a failure at `#0` keeps the new mode in the cache. -/
theorem test_setmode_fails : after (accepted 0x9001 [bad 2] .normal) (fun t => (t.status, t.modeCache)) =
    some (0x0201, .shutdown) := by decide

/-- R69: a failure at `#1` leaves the sensor's `SD` as it was. -/
theorem test_setmode_write_fails :
    after { accepted 0x9001 [byte 0x60, bad 2] .normal with mem := [(configCell 0x48, 0x60)] }
      (fun t => (t.status, t.modeCache, (config48 t).isSome)) = some (0x0211, .shutdown, true) := by decide

/-- V60, through the whole command. -/
theorem test_readtemp : after (accepted 0xA000 [⟨0, [0x19, 0x00]⟩] .normal) (fun t => (t.status, t.result, t.tempf)) =
    some (0x0000, 0x0190, 0x429A0000) := by decide

/-- V62: a short read at `#3`, after the one-shot write and the delay. -/
theorem test_readtemp_one_shot_no_data :
    after (accepted 0xA000 [byte 0x61, good, byte 0xC8] .shutdown) (fun t => (t.status, t.result, config48 t)) =
      some (0x0032, 0x0000, some 0xE1) := by decide

/-- V10 of P4: a reserved opcode. -/
theorem test_illegal_word : after (accepted 0xB000 [good] .normal) (fun t => (t.status, t.sent, t.seq)) =
    some (0x0003, [], .idle) := by decide

/-- A word placed by `withFetchWord` is what the next step runs: SETCFG's first request goes out, and the block waits. -/
theorem test_withFetchWord :
    after (State.reset.withFetchWord 16 0x5060) (fun t => (t.seq, t.outstanding)) =
      some (.busy, some (writeRequest 0x48 .config 0x60)) := by decide

/-! ### Witnesses: for each statement, a state and operands that meet its hypotheses -/

/-- The state in which the INIT of the reset machine waits for its `BEGIN`. -/
def waitingInit : State :=
  { State.reset with cmd := 0x1000, seq := .busy, outstanding := some beginRequest, sent := [beginRequest] }

/-- A READTEMP in SHUTDOWN that waits for its delay. -/
def waitingDelay : State :=
  { State.reset with cmd := 0xA000, seq := .busy, modeCache := .shutdown, stepIdx := 2, outstanding := some settleRequest,
                     devPtr := .known .config, cfgTmp := 0x61, rx := [0x61], mem := [(configCell 0x48, 0xE1)],
                     sent := [readRequest 0x48 .config 1, writeRequest 0x48 .config 0xE1, settleRequest] }

theorem test_invariant_waitingInit : MachineInv waitingInit :=
  ⟨reset_mem_wf, by decide, by decide, by decide, by decide, by decide,
    fun _ => ⟨rfl, rfl, rfl, .inr ⟨.init, beginRequest, by decide, rfl, by decide, by decide⟩⟩,
    by decide, by decide, by decide, by decide⟩

theorem test_invariant_waitingDelay : MachineInv waitingDelay :=
  ⟨rfl, by decide, by decide, by decide, by decide, by decide,
    fun _ => ⟨rfl, rfl, rfl, .inr ⟨.readtemp, settleRequest, by decide, rfl, by decide, by decide⟩⟩,
    by decide, by decide, by decide, by decide⟩

theorem test_witness_DecodedWordIsTheEncoding :
    decode 0x3301 = .ok (.initResMode 3 .shutdown) ∧ decode 0x50FF = .ok (.setcfg 0xFF) := by decide

theorem test_witness_LegalWordsAreTheTableRows :
    legal 0x2300 = true ∧ decode 0x2300 = .ok (.initRes 3) ∧
      (⟨"INIT_RES", 0xFCFF, 0x2000⟩ : OpcodeRow) ∈ opcodeRows ∧ (0x2300 : Word) &&& 0xFCFF = 0x2000 := by decide

theorem test_witness_ReservedOpcodesAreIllegal :
    (0x0FFF : Word).extractLsb' 12 4 = 0x0 ∧ 0xB ≤ (0xB000 : Word).extractLsb' 12 4 ∧
      ¬ 0xB ≤ (0xAFFF : Word).extractLsb' 12 4 ∧ 0xB ≤ (0xFFFF : Word).extractLsb' 12 4 := by decide

theorem test_witness_UnusedBitsMustBeZero :
    (0x2400 : Word).extractLsb' 12 4 = 0x2 ∧ (0x2400 : Word) &&& 0x0CFF ≠ 0 ∧ (0x2300 : Word) &&& 0x0CFF = 0 := by decide

theorem test_witness_AssemblerWords :
    assemble (.setcfg 0xFF) = some 0x50FF ∧ assemble (.setcfg 0x100) = none ∧ assemble (.initRes 9) = some 0x2000 ∧
      assemble (.initRes 8) = none ∧ assemble (.initRes 12) = some 0x2300 ∧ assemble (.initRes 13) = none := by decide

theorem test_witness_StepAcceptsTheOfferedWord :
    (offered 0x3201 [] .normal).seq = .idle ∧ (offered 0x3201 [] .normal).offers = [0x3201] ∧
      (offered 0x3201 [] .normal).agenda = [] ∧
      ({ offered 0xFFFF [] .normal with agenda := [.block] } : State).agenda = [.block] ∧
      ({ waitingInit with offers := [0x8000], agenda := [.offer 0x4000] } : State).agenda = [.offer 0x4000] := by decide

/-- R51: with no word offered the turn of an IDLE block ends the pulse of `done`. -/
theorem test_idle_turn_ends_the_pulse :
    step { State.reset with done := true, result := 0x0190 } = .next { State.reset with result := 0x0190 } ∧
      step { State.reset with done := true, agenda := [.block, .block] } = .next { State.reset with agenda := [.block] } :=
  ⟨rfl, rfl⟩

/-- R49: a word offered while the block is BUSY comes after the one that waits. -/
theorem test_offer_is_appended :
    after { waitingInit with offers := [0x8000], agenda := [.offer 0x4000] } (fun t => (t.offers, t.seq, t.cmd)) =
      some ([0x8000, 0x4000], .busy, 0x1000) := by decide

theorem test_witness_StepRunsTheLatchedCommand :
    waitingInit.seq = .busy ∧ decode waitingInit.cmd = .ok .init ∧ waitingInit.agenda = [] ∧
      (State.reset.withFetchWord 16 0x3201).agenda = [.block] ∧ (State.reset.withFetchWord 16 0x3201).seq = .busy ∧
      decode (State.reset.withFetchWord 16 0x3201).cmd = .ok (.initResMode 2 .shutdown) := by decide

theorem test_witness_IllegalWordCompletesIllegal :
    Ready (accepted 0x7400 [] .normal) ∧ legal (accepted 0x7400 [] .normal).cmd = false ∧
      (accepted 0x7400 [] .normal).agenda = [] ∧ Ready (State.reset.withFetchWord 16 0x7400) ∧
      (State.reset.withFetchWord 16 0x7400).agenda = [.block] := by decide

theorem test_witness_OfferWaitsWhileBusy :
    ({ waitingInit with offers := [0x8000] } : State).seq = .busy ∧
      ({ waitingInit with offers := [0x8000] } : State).agenda = [] ∧
      ∃ t, step { waitingInit with offers := [0x8000] } = .next t := ⟨by decide, by decide, _, rfl⟩

theorem test_witness_SilenceHangsTheBlock :
    MachineInv waitingInit ∧ waitingInit.seq = .busy ∧ waitingInit.agenda = [] ∧ waitingInit.outstanding = some beginRequest ∧ waitingInit.answers = [] :=
  ⟨test_invariant_waitingInit, by decide⟩

theorem test_witness_SilenceHangsTheBlock_delay :
    MachineInv waitingDelay ∧ waitingDelay.seq = .busy ∧ waitingDelay.agenda = [] ∧ waitingDelay.outstanding = some settleRequest ∧ waitingDelay.completions = 0 :=
  ⟨test_invariant_waitingDelay, by decide⟩

theorem test_witness_AnsweredCommandCompletes :
    Ready (accepted 0x3201 (List.replicate 8 good) .normal) ∧
      8 ≤ (accepted 0x3201 (List.replicate 8 good) .normal).answers.length ∧
      1 ≤ (accepted 0x3201 (List.replicate 8 good) .normal).completions := by decide

/-- A run in which GETMODE, already accepted, completes in the first step, and nothing more is offered. -/
def getmodeRun (n : Nat) : State :=
  match n with
  | 0 => accepted 0x8000 [] .shutdown
  | 1 => { accepted 0x8000 [] .shutdown with seq := .idle, done := true, result := 0x0001 }
  | _ + 2 => { accepted 0x8000 [] .shutdown with seq := .idle, result := 0x0001 }

theorem test_witness_AnsweredCommandCompletes_run :
    IsRun getmodeRun (fun _ => []) ∧ WeaklyFair getmodeRun (fun _ => []) ∧ MachineInv (getmodeRun 0) ∧
      (getmodeRun 0).seq = .busy := by
  refine ⟨fun n => ?_, ⟨fun n => ⟨n, n.le_refl, ?_⟩, fun n q h => ⟨n, n.le_refl, ?_⟩⟩, ?_, rfl⟩
  · rcases n with _ | _ | n <;> rfl
  · rcases n with _ | _ | n <;> exact .inl rfl
  · rcases n with _ | _ | n <;> cases h
  · exact ⟨reset_mem_wf, by decide, by decide, by decide, by decide, by decide, fun _ => ⟨rfl, rfl, rfl, .inl ⟨rfl, rfl⟩⟩,
      by decide, by decide, by decide, by decide⟩

/-- The READTEMP of `waitingDelay` is taken up again: the delay completes, the block reads TEMP, the transport answers, and
the command completes. -/
def readtempRun (n : Nat) : State :=
  match n with
  | 0 => waitingDelay
  | 1 => { waitingDelay with completions := 1 }
  | 2 => { waitingDelay with stepIdx := 3, outstanding := some (readRequest 0x48 .temp 2),
                             sent := waitingDelay.sent ++ [readRequest 0x48 .temp 2] }
  | 3 => { waitingDelay with stepIdx := 3, outstanding := some (readRequest 0x48 .temp 2),
                             sent := waitingDelay.sent ++ [readRequest 0x48 .temp 2], answers := [⟨0, [0xC8]⟩] }
  | 4 => { waitingDelay with stepIdx := 4, outstanding := none, seq := .idle, done := true, devPtr := .unknown,
                             status := 0x0032, sent := waitingDelay.sent ++ [readRequest 0x48 .temp 2] }
  | _ + 5 => { waitingDelay with stepIdx := 4, outstanding := none, seq := .idle, devPtr := .unknown,
                                 status := 0x0032, sent := waitingDelay.sent ++ [readRequest 0x48 .temp 2] }

/-- What the delay primitive and the transport do in that run. -/
def readtempEnv (n : Nat) : List Move :=
  match n with
  | 0 => [.delayDone]
  | 2 => [.answer ⟨0, [0xC8]⟩]
  | _ => []

/-- A weakly fair run with a delay and then a transport request outstanding, each answered while the block is BUSY. -/
theorem test_witness_AnsweredCommandCompletes_outstanding :
    IsRun readtempRun readtempEnv ∧ WeaklyFair readtempRun readtempEnv ∧ MachineInv (readtempRun 0) ∧
      (readtempRun 0).seq = .busy ∧ (readtempRun 0).outstanding = some settleRequest ∧
      (readtempRun 2).outstanding = some (readRequest 0x48 .temp 2) ∧ (readtempRun 4).seq = .idle := by
  refine ⟨fun n => ?_, ⟨fun n => ⟨n + 5, by omega, .inl rfl⟩, fun n q h => ⟨n + 5, by omega, .inr ?_⟩⟩,
    test_invariant_waitingDelay, rfl, rfl, rfl, rfl⟩
  · rcases n with _ | _ | _ | _ | _ | n <;> rfl
  · simp [readtempRun]

theorem test_witness_ResponsesMayComeInParts :
    Ready (accepted 0x7100 [byte 0xE1] .normal) ∧
      ∃ t, exec (.setres 1) (accepted 0x7100 [byte 0xE1] .normal) = .next t ∧ t.seq = .busy := ⟨by decide, _, rfl, by decide⟩

theorem test_witness_ResponsesMayComeInParts_resumed :
    waitingDelay.seq = .busy ∧ MachineInv waitingDelay ∧
      decode waitingDelay.cmd = .ok .readtemp ∧ ∃ t, exec .readtemp waitingDelay = .next t ∧ t.seq = .busy :=
  ⟨by decide, test_invariant_waitingDelay, by decide, _, rfl, by decide⟩

theorem test_witness_ResponsesMayComeInParts_arriving :
    ({ waitingInit with agenda := [.answer (bad 2)], answers := [good] } : State).lateRequests = [] ∧
      after { waitingInit with agenda := [.answer (bad 2)], answers := [good] } (·.answers) = some [good, bad 2] ∧
      ({ waitingDelay with agenda := [.delayDone] } : State).lateDelays = 0 ∧
      after { waitingDelay with agenda := [.delayDone] } (·.completions) = some 1 := by decide

theorem test_witness_RepliesOfTheTransport :
    reply ⟨.readN, 0x48, 0, 0, 2⟩ ⟨0, [0x19]⟩ = .noData ∧ reply ⟨.readN, 0x48, 0, 0, 2⟩ ⟨0, [0x19, 0]⟩ = .returned [0x19, 0] ∧
      reply ⟨.readN, 0x48, 1, 0, 1⟩ ⟨5, []⟩ = .busError 5 ∧ reply ⟨.begin, 0, 0, 0, 0⟩ ⟨5, []⟩ = .returned [] ∧
      reply ⟨.write1, 0x48, 1, 0x61, 0⟩ ⟨0, []⟩ = .returned [] := by decide

theorem test_witness_FailedRequestIsRecorded :
    (accepted 0x6000 [bad 5] .normal).outstanding = none ∧ (accepted 0x6000 [bad 5] .normal).answers = [bad 5] ∧
      (0x48 : BitVec 7) = (accepted 0x6000 [bad 5] .normal).addr ∧ Kind.readN ≠ .begin ∧ (bad 5).xstatus ≠ 0 ∧
      good.xstatus = 0 ∧ good.bytes.length < (1 : BitVec 2).toNat := by decide

theorem test_witness_TransactionMovesThePointer :
    (transact ⟨.setPtr, 0x48, Reg.tlow.code, 0, 0⟩ good State.reset).devPtr = .known .tlow ∧
      (transact ⟨.setPtr, 0x48, Reg.temp.code, 0, 0⟩ (bad 2) State.reset).devPtr = .unknown ∧
      (transact ⟨.readN, 0x48, Reg.temp.code, 0, 2⟩ (byte 0x19) State.reset).devPtr = .unknown ∧
      beginRequest = .transport ⟨.begin, 0, 0, 0, 0⟩ ∧ waitingDelay.addr ≠ 0 ∧
      (transact ⟨.begin, 0, 0, 0, 0⟩ (bad 5) waitingDelay).devPtr = .known .config := by decide

/-- `waitingDelay` when another master's transaction is the next move. -/
def foreign (q : TransportRequest) (rsp : Response) : State := { waitingDelay with agenda := [.other q rsp] }

theorem test_witness_TransactionMovesThePointer_other :
    (foreign ⟨.begin, 0, 0, 0, 0⟩ good).agenda = [.other ⟨.begin, 0, 0, 0, 0⟩ good] ∧
      (foreign ⟨.begin, 0, 0, 0, 0⟩ good).lateRequests = [] ∧
      after (foreign ⟨.setPtr, 0x49, 0x00, 0, 0⟩ good) (·.devPtr) = some (.known .config) ∧
      after (foreign ⟨.setPtr, 0x48, 0x03, 0, 0⟩ good) (·.devPtr) = some (.known .thigh) ∧
      after (foreign ⟨.readN, 0x48, 0x00, 0, 2⟩ ⟨0, [1, 2]⟩) (·.devPtr) = some (.known .temp) ∧
      after (foreign ⟨.readN, 0x48, 0x00, 0, 2⟩ ⟨0, [1]⟩) (·.devPtr) = some .unknown ∧
      after (foreign ⟨.setPtr, 0x48, 0x00, 0, 0⟩ (bad 1)) (·.devPtr) = some .unknown ∧
      ((0x04 : Byte) ≠ Reg.temp.code ∧ (0x04 : Byte) ≠ Reg.config.code ∧ (0x04 : Byte) ≠ Reg.tlow.code ∧
        (0x04 : Byte) ≠ Reg.thigh.code) ∧
      after (foreign ⟨.setPtr, 0x48, 0x04, 0, 0⟩ good) (·.devPtr) = some .unknown := by decide

theorem test_witness_TransactionWritesConfiguration :
    waitingDelay.mem.wf = true ∧
      (transact ⟨.write1, 0x48, Reg.config.code, 0x61, 0⟩ good waitingDelay).mem = [(configCell 0x48, 0x61)] ∧
      (transact ⟨.write1, 0x48, Reg.config.code, 0x61, 0⟩ (bad 2) waitingDelay).mem = [] ∧
      Reg.tlow.code ≠ Reg.config.code ∧
      (transact ⟨.write1, 0x48, Reg.tlow.code, 0x61, 0⟩ good waitingDelay).mem = waitingDelay.mem := by decide

theorem test_witness_TransactionWritesConfiguration_other :
    (foreign ⟨.write1, 0x48, 0x01, 0x60, 0⟩ good).mem.wf = true ∧
      after (foreign ⟨.write1, 0x48, 0x01, 0x60, 0⟩ good) config48 = some (some 0x60) ∧
      after (foreign ⟨.write1, 0x48, 0x01, 0x60, 0⟩ (bad 1)) config48 = some none ∧
      after { foreign ⟨.write1, 0x48, 0x00, 0x60, 0⟩ good with mem := [(tempCell 0x48 1, 7), (configCell 0x48, 0xE1)] }
        (·.mem) = some [(configCell 0x48, 0xE1)] ∧
      after (foreign ⟨.write1, 0x48, 0x02, 0x60, 0⟩ good) config48 = some (some 0xE1) ∧
      after (foreign ⟨.write1, 0x48, 0x04, 0x60, 0⟩ good) config48 = some (some 0xE1) ∧
      after (foreign ⟨.readN, 0x48, 0x01, 0, 1⟩ (byte 0x60)) config48 = some (some 0xE1) := by decide

theorem test_witness_TransactionWritesConfiguration_sensor :
    ({ waitingDelay with agenda := [.sensor 0x41] } : State).lateRequests = [] ∧
      after { waitingDelay with agenda := [.sensor 0x41] } config48 = some (some 0x41) ∧
      after { waitingDelay with agenda := [.convert 0x1900] } (fun t => (config48 t, t.mem.read (tempCell 0x48 0),
        t.mem.read (tempCell 0x48 1))) = some (some 0xE1, some 0x19, some 0x00) := by decide

/-- A SETRES whose write fails: the hypotheses of the statements about a failure. -/
theorem test_witness_StatusNamesTheFailedRequest :
    Ready (accepted 0x7300 [byte 0xE1, bad 2] .normal) ∧
      ∃ t, exec (.setres 3) (accepted 0x7300 [byte 0xE1, bad 2] .normal) = .next t ∧ t.seq = .idle ∧ t.status ≠ 0x0000 :=
  ⟨by decide, _, rfl, by decide⟩

theorem test_witness_FailedCommandReturnsNoValue :
    Ready (accepted 0x4000 [byte 0xE1, bad 2] .normal) ∧
      ∃ t, exec .getcfg (accepted 0x4000 [byte 0xE1, bad 2] .normal) = .next t ∧ t.seq = .idle ∧ t.status ≠ 0x0000 :=
  ⟨by decide, _, rfl, by decide⟩

theorem test_witness_OutcomesOfACommand :
    Ready (accepted 0x5060 [good, good] .normal) ∧
      (∃ t, exec (.setcfg 0x60) (accepted 0x5060 [good, good] .normal) = .next t ∧ t.seq = .idle) ∧
      ∃ t, exec .getmode (accepted 0x8000 [] .normal) = .next t ∧ t.seq = .idle :=
  ⟨by decide, ⟨_, rfl, by decide⟩, _, rfl, by decide⟩

theorem test_witness_InitCompletes :
    Ready (accepted 0x1000 [bad 9, good] .shutdown) ∧ Good good ∧
      (accepted 0x1000 [bad 9, good] .shutdown).answers = bad 9 :: good :: [] := by decide

theorem test_witness_InitResCompletes :
    Ready (accepted 0x2300 [good, byte 0xFF, good, good, good] .normal) ∧ GoodByte (byte 0xFF) 0xFF ∧ Good good ∧
      (accepted 0x2300 [good, byte 0xFF, good, good, good] .normal).answers = [good, byte 0xFF, good, good, good] := by
  decide

theorem test_witness_InitResModeCompletes :
    let rs := [good, byte 0x00, good, good, byte 0x40, good, good, good]
    Ready (accepted 0x3201 rs .normal) ∧ (accepted 0x3201 rs .normal).answers = rs ∧ GoodByte (byte 0x00) 0x00 ∧
      GoodByte (byte 0x40) 0x40 ∧ Good good := by decide

theorem test_witness_InitCommandsWriteTheCache :
    (∃ t, exec .init (accepted 0x1000 [good, bad 4] .shutdown) = .next t ∧ t.status = 0x0411 ∧ t.modeCache = .normal) ∧
      (∃ t, exec (.initRes 3) (accepted 0x2300 [good] .shutdown) = .next t ∧ t.seq = .busy ∧ t.modeCache = .normal) ∧
      (∃ t, exec (.initResMode 2 .shutdown) (accepted 0x3201 [good, byte 0, good, bad 1] .normal) = .next t ∧
        t.seq = .idle ∧ t.status ≠ 0x0000 ∧ (statusStep t.status).toNat = 3 ∧ t.modeCache = .normal) ∧
      (∃ t, exec (.initResMode 2 .shutdown) (accepted 0x3201 [good, byte 0, good, good, bad 1] .normal) = .next t ∧
        t.seq = .idle ∧ t.status ≠ 0x0000 ∧ (statusStep t.status).toNat = 4 ∧ t.modeCache = .shutdown) ∧
      (∃ t, exec (.initResMode 2 .shutdown) (accepted 0x3201 [good, byte 0, good] .normal) = .next t ∧
        t.seq = .busy ∧ t.stepIdx = 3) ∧
      ∃ t, exec (.initResMode 2 .shutdown) (accepted 0x3201 [good, byte 0, good, good] .normal) = .next t ∧
        t.seq = .busy ∧ t.stepIdx = 4 :=
  ⟨⟨_, rfl, by decide⟩, ⟨_, rfl, by decide⟩, ⟨_, rfl, by decide⟩, ⟨_, rfl, by decide⟩, ⟨_, rfl, by decide⟩, _, rfl,
    by decide⟩

/-- For GETCFG, GETRES and their kin: a read that returns 0xFF, then a good or a failing `SETPTR`. -/
theorem test_witness_GetcfgCompletes :
    Ready (accepted 0x4000 [byte 0xFF, good] .normal) ∧ GoodByte (byte 0xFF) 0xFF ∧ Good good ∧
      (accepted 0x4000 [byte 0xFF, good] .normal).answers = [byte 0xFF, good] := by decide

theorem test_witness_GetcfgReturnsNothingIfRestoreFails :
    Ready (accepted 0x4000 [byte 0x61, bad 3] .normal) ∧ GoodByte (byte 0x61) 0x61 ∧ ¬ Good (bad 3) ∧
      (accepted 0x4000 [byte 0x61, bad 3] .normal).answers = [byte 0x61, bad 3] := by decide

theorem test_witness_SetcfgCompletes :
    Ready (accepted 0x50FF [good, good] .normal) ∧ Good good ∧
      (accepted 0x50FF [good, good] .normal).answers = [good, good] := by decide

theorem test_witness_SetcfgStopsAtAFailedWrite :
    Ready (accepted 0x5060 [bad 2] .normal) ∧ ¬ Good (bad 2) ∧ (accepted 0x5060 [bad 2] .normal).answers = [bad 2] := by
  decide

theorem test_witness_GetresCompletes :
    Ready (accepted 0x6000 [byte 0x41, good] .normal) ∧ GoodByte (byte 0x41) 0x41 ∧ Good good ∧
      (accepted 0x6000 [byte 0x41, good] .normal).answers = [byte 0x41, good] := by decide

theorem test_witness_SetresCompletes :
    Ready (accepted 0x7300 [byte 0x1F, good, good] .normal) ∧ GoodByte (byte 0x1F) 0x1F ∧ Good good ∧
      (accepted 0x7300 [byte 0x1F, good, good] .normal).answers = [byte 0x1F, good, good] := by decide

theorem test_witness_SetresWritesNothingIfReadFails :
    Ready (accepted 0x7300 [bad 2] .normal) ∧ ¬ Good (bad 2) ∧ (accepted 0x7300 [bad 2] .normal).answers = [bad 2] ∧
      Ready (accepted 0x7300 [good] .normal) ∧ Good good ∧ good.bytes = [] := by decide

theorem test_witness_ResolutionRoundTrip :
    let s := { accepted 0x7300 [byte 0x01, good, good] .normal with mem := [(configCell 0x48, 0x01)] }
    let u := { accepted 0x6000 [byte 0x61, good] .normal with mem := [(configCell 0x48, 0x61)] }
    Ready s ∧ GoodByte (byte 0x01) 0x01 ∧
      (∃ t, exec (.setres 3) s = .next t ∧ t.seq = .idle ∧ t.status = 0x0000 ∧ u.addr = t.addr ∧ u.mem = t.mem) ∧
      Ready u ∧ u.mem.read (configCell u.addr) = some 0x61 ∧ GoodByte (byte 0x61) 0x61 ∧ Good good :=
  ⟨by decide, by decide, ⟨_, rfl, by decide⟩, by decide⟩

theorem test_witness_GetmodeCompletes : Ready (accepted 0x8000 [] .shutdown) := by decide

theorem test_witness_SetmodeCompletes :
    Ready (accepted 0x9001 [byte 0x60, good, good] .normal) ∧ GoodByte (byte 0x60) 0x60 ∧ Good good ∧
      (accepted 0x9001 [byte 0x60, good, good] .normal).answers = [byte 0x60, good, good] := by decide

theorem test_witness_SetmodeThenGetmode :
    Ready (accepted 0x9001 [bad 2] .normal) ∧
      (∃ t, exec (.setmode .shutdown) (accepted 0x9001 [bad 2] .normal) = .next t ∧ t.modeCache = .shutdown) ∧
      Ready (accepted 0x8000 [] .shutdown) ∧ (accepted 0x8000 [] .shutdown).modeCache = .shutdown ∧
      let s := { accepted 0x9001 [byte 0x60, bad 2] .normal with mem := [(configCell 0x48, 0x60)] }
      Ready s ∧ s.mem.read (configCell s.addr) = some 0x60 ∧
        ∃ t, exec (.setmode .shutdown) s = .next t ∧ t.seq = .idle ∧ t.status ≠ 0x0000 ∧ (statusStep t.status).toNat = 1 :=
  ⟨by decide, ⟨_, rfl, by decide⟩, by decide, by decide, by decide, by decide, _, rfl, by decide⟩

theorem test_witness_OnlyFourCommandsWriteTheCache :
    writesCache (.setcfg 1) = false ∧ ∃ t, exec (.setcfg 1) (accepted 0x5001 [good, good] .normal) = .next t :=
  ⟨rfl, _, rfl⟩

theorem test_witness_CacheChangesOnlyInItsCommands :
    (∃ t, step (accepted 0x9001 [] .normal) = .next t ∧ t.modeCache ≠ (accepted 0x9001 [] .normal).modeCache) ∧
      ∃ t, step { waitingDelay with agenda := [.reset 0x4A] } = .next t ∧ t.modeCache ≠ waitingDelay.modeCache :=
  ⟨⟨_, rfl, by decide⟩, _, rfl, by decide⟩

theorem test_witness_ReadtempNormalCompletes :
    let s := accepted 0xA000 [⟨0, [0xC8, 0x00]⟩] .normal
    Ready s ∧ s.modeCache = .normal ∧ s.answers = [⟨0, [0xC8, 0x00]⟩] ∧ Good ⟨0, [0xC8, 0x00]⟩ := by decide

theorem test_witness_ReadtempShutdownCompletes :
    let s := accepted 0xA000 [byte 0x61, good, ⟨0, [0xC8, 0x00]⟩] .shutdown
    Ready s ∧ s.modeCache = .shutdown ∧ s.answers = [byte 0x61, good, ⟨0, [0xC8, 0x00]⟩] ∧ s.completions = 0 + 1 ∧
      GoodByte (byte 0x61) 0x61 ∧ Good good ∧ Good ⟨0, [0xC8, 0x00]⟩ := by decide

theorem test_witness_ReadtempWaitsForTheDelay :
    let s := { accepted 0xA000 [byte 0x61, good] .shutdown with completions := 0 }
    Ready s ∧ s.modeCache = .shutdown ∧ s.answers = [byte 0x61, good] ∧ s.completions = 0 ∧
      GoodByte (byte 0x61) 0x61 ∧ Good good := by decide

theorem test_witness_OneShotFailureSkipsTheRead :
    Ready (accepted 0xA000 [bad 2] .shutdown) ∧ ¬ Good (bad 2) ∧ (accepted 0xA000 [bad 2] .shutdown).answers = [bad 2] ∧
      Ready (accepted 0xA000 [byte 0x61, bad 2] .shutdown) ∧ GoodByte (byte 0x61) 0x61 ∧
      (accepted 0xA000 [byte 0x61, bad 2] .shutdown).answers = [byte 0x61, bad 2] ∧
      Ready (accepted 0xA000 [good] .shutdown) ∧ Good good ∧ good.bytes = [] := by decide

theorem test_witness_CommandFrame :
    ∃ t, exec (.initRes 3) (accepted 0x2300 [good, byte 1, good, good, good] .normal) = .next t ∧
      t.sent.length = 5 := ⟨_, rfl, by decide⟩

theorem test_witness_ReadingCommandsKeepMemory :
    ∃ t, exec .getres (accepted 0x6000 [byte 0x41, good] .normal) = .next t ∧ t.status = 0x0000 := ⟨_, rfl, by decide⟩

theorem test_witness_CommandsTouchOnlyConfiguration :
    (∃ t, exec (.setcfg 1) (accepted 0x5001 [good, good] .normal) = .next t ∧ t.mem.read (configCell 0x48) = some 1) ∧
      configCell 0x49 ≠ configCell (accepted 0x5001 [good, good] .normal).addr ∧
      tempCell 0x48 1 ≠ configCell 0x48 := ⟨⟨_, rfl, by decide⟩, by decide⟩

theorem test_witness_EditsKeepTheOtherBits :
    (4 ≠ 5 ∧ 4 ≠ 6 ∧ (editConfig (.resolution 3) 0x1F).getLsbD 4 = true) ∧
      (7 ≠ 5 ∧ 7 ≠ 6 ∧ (editConfig (.resolution 0) 0xFF).getLsbD 7 = true) ∧
      (1 ≠ 0 ∧ (editConfig (.mode .shutdown) 0xFC).getLsbD 1 = false) ∧
      6 ≠ 7 ∧ (editConfig .oneShot 0x3F).getLsbD 6 = false := by decide

theorem test_witness_ResetSetsTheRegisters :
    ({ waitingInit with agenda := [.reset 0x7F] } : State).agenda = .reset 0x7F :: [] ∧
      ({ waitingDelay with agenda := [.reset 0x00, .block] } : State).agenda = .reset 0x00 :: [.block] := by decide

theorem test_witness_TempfIsTheNearestBinary32 : F32Finite 0xC289999A ∧ F32Finite 0x7F7FFFFF ∧ ¬ F32Finite 0x7F800000 := by
  decide

theorem test_witness_AddressChangesOnlyInReset :
    ∃ t, step { waitingInit with agenda := [.reset 0x4A] } = .next t ∧ t.addr ≠ waitingInit.addr := ⟨_, rfl, by decide⟩

theorem test_witness_CompletedCommandRestoresThePointer :
    MachineInv { waitingInit with answers := [good, good] } ∧
      ∃ t, step { waitingInit with answers := [good, good] } = .next t ∧ t.done = true ∧ t.status = 0x0000 ∧
        decode t.cmd = .ok .init ∧ t.devPtr = .known .temp :=
  ⟨{ test_invariant_waitingInit with lateAnswers := by decide }, _, rfl, by decide⟩

/-- 95 section 2.8: reset while READTEMP waits on its delay. -/
theorem test_reset_while_waiting :
    after { waitingDelay with agenda := [.reset 0x4A] }
      (fun t => (t.addr, t.seq, t.status, t.lateDelays)) = some (0x4A, .idle, 0x0000, 1) ∧
    after { waitingDelay with agenda := [.reset 0x4A] } (fun t => (t.done, config48 t)) =
      some (false, some 0xE1) := by decide

/-- R105: a bare read returns Configuration while READTEMP waits for its delay, and the temperature word afterwards. -/
theorem test_bare_read :
    bareRead waitingDelay = some [0xE1] ∧
      after { waitingDelay with agenda := [.convert 0xC800] } (fun t => bareRead { t with devPtr := .known .temp }) =
        some (some [0xC8, 0x00]) := by decide

/-- A block that a reset took out of a SETCFG whose write has had no response. -/
def owing : State :=
  { State.reset with lateRequests := [⟨.write1, 0x48, Reg.config.code, 0x60, 0⟩], lateDelays := 1, mem := [] }

/-- A reset of a block that has just accepted a command and of one whose pulse of `done` stands, no request outstanding. -/
theorem test_witness_LateResponseIsDiscarded_none :
    (accepted 0x1000 [good] .normal).seq = .busy ∧ (accepted 0x1000 [good] .normal).outstanding = none ∧
      after { accepted 0x1000 [good] .normal with agenda := [.reset 0x48] } (fun t => (t.done, t.outstanding, t.answers)) =
        some (false, none, [good]) ∧
      after { State.reset with done := true, agenda := [.reset 0x48] } (·.done) = some false := by decide

/-- The state in which a SETCFG waits for the response of its write. -/
def waitingWrite : State :=
  { waitingDelay with cmd := 0x5060, stepIdx := 0, outstanding := some (writeRequest 0x48 .config 0x60),
                      sent := [writeRequest 0x48 .config 0x60] }

/-- A reset while a `WRITE1` to Configuration is outstanding, without and with its response there: Configuration, which was
known, is unknown. -/
theorem test_witness_LateResponseIsDiscarded_write :
    waitingWrite.mem.wf = true ∧ config48 waitingWrite = some 0xE1 ∧
      waitingWrite.outstanding = some (.transport ⟨.write1, 0x48, Reg.config.code, 0x60, 0⟩) ∧
      (∃ t, step { waitingWrite with agenda := [.reset 0x48] } = .next t ∧ config48 t = none ∧
        t.lateRequests = [⟨.write1, 0x48, Reg.config.code, 0x60, 0⟩]) ∧
      ∃ t, step { waitingWrite with agenda := [.reset 0x48], answers := [good] } = .next t ∧ config48 t = none ∧
        t.lateRequests = [] ∧ t.answers = [] :=
  ⟨by decide, by decide, rfl, ⟨_, rfl, by decide⟩, _, rfl, by decide⟩

theorem test_invariant_waitingWrite : MachineInv waitingWrite :=
  ⟨rfl, by decide, by decide, by decide, by decide, by decide,
    fun _ => ⟨rfl, rfl, rfl, .inr ⟨.setcfg 0x60, writeRequest 0x48 .config 0x60, by decide, rfl, by decide, by decide⟩⟩,
    by decide, by decide, by decide, by decide⟩

/-- A reset while a delay is outstanding that has already completed: the completion is discarded at once. -/
theorem test_witness_LateResponseIsDiscarded_completed :
    ({ waitingDelay with completions := 1 } : State).outstanding = some settleRequest ∧
      ∃ t, step { waitingDelay with agenda := [.reset 0x48], completions := 1 } = .next t ∧ t.completions = 0 ∧
        t.lateDelays = 0 ∧ t.outstanding = none := ⟨rfl, _, rfl, by decide⟩

theorem test_witness_LateResponseIsDiscarded :
    (∃ t, step { waitingInit with agenda := [.reset 0x48] } = .next t ∧ t.lateRequests.length = 1) ∧
      (∃ t, step { waitingInit with agenda := [.reset 0x48], answers := [good, bad 7] } = .next t ∧ t.answers = [bad 7]) ∧
      (∃ t, step { waitingDelay with agenda := [.reset 0x48] } = .next t ∧ t.lateDelays = 1) ∧
      ({ owing with agenda := [.answer good] } : State).agenda = .answer good :: [] ∧
      owing.lateRequests = ⟨.write1, 0x48, Reg.config.code, 0x60, 0⟩ :: [] ∧ owing.lateDelays = 0 + 1 ∧
      owing.mem.wf = true ∧
      (∃ t, step { owing with agenda := [.other ⟨.write1, 0x48, Reg.config.code, 0x01, 0⟩ good] } = .next t ∧
        t.devPtr = .unknown ∧ t.mem = []) ∧
      ∃ t, step { owing with agenda := [.sensor 0x00] } = .next t ∧ t.mem = [] :=
  ⟨⟨_, rfl, by decide⟩, ⟨_, rfl, by decide⟩, ⟨_, rfl, by decide⟩, by decide, by decide, by decide, by decide,
    ⟨_, rfl, by decide⟩, _, rfl, by decide⟩

/-- A reset that binds the block to another sensor keeps the byte known of the first, holds the three bytes of the second,
and after an abandoned write to its Configuration does not know that byte. -/
theorem test_witness_LateResponseIsDiscarded_sensor :
    MachineInv ({ waitingDelay with agenda := [.reset 0x4A] } : State) ∧
      waitingDelay.mem.read (configCell 0x48) = some 0xE1 ∧ waitingDelay.mem.read (configCell 0x4A) = none ∧
      (∃ t, step { waitingDelay with agenda := [.reset 0x4A] } = .next t ∧ t.mem.read (configCell 0x48) = some 0xE1 ∧
        (t.mem.read (configCell 0x4A)).isSome ∧ (t.mem.read (tempCell 0x4A 1)).isSome ∧
        t.mem.read (configCell 0x49) = none) ∧
      ∃ t, step { owing with agenda := [.reset 0x48] } = .next t ∧ t.mem.read (configCell 0x48) = none ∧
        (t.mem.read (tempCell 0x48 0)).isSome :=
  ⟨{ test_invariant_waitingDelay with memory := rfl }, by decide, by decide, ⟨_, rfl, by decide⟩, _, rfl, by decide⟩

theorem test_witness_StepKeepsTheInvariant :
    MachineInv waitingDelay ∧ ∃ t, step waitingDelay = .next t := ⟨test_invariant_waitingDelay, _, rfl⟩
end

section
/-! Reserved opcodes (R45): no row of the opcode table and no case of the decoder is for one of them. -/

namespace Sys2Proof

/-- `OP` values 0x0 and 0xB to 0xF (R45). -/
def ReservedOp (op : BitVec 4) : Prop := op = 0x0 ∨ 0xB ≤ op

theorem fieldOp_and (v w : Word) : fieldOp (v &&& w) = fieldOp v &&& fieldOp w := BitVec.extractLsb'_and

/-- Every row of the table compares the whole opcode field. -/
theorem fieldOp_mask_of_mem_opcodeRows : ∀ r ∈ opcodeRows, fieldOp r.mask = BitVec.allOnes 4 := by decide

theorem not_reservedOp_pattern_of_mem_opcodeRows : ∀ r ∈ opcodeRows, ¬ ReservedOp (fieldOp r.pattern) := by
  unfold ReservedOp
  decide

/-- A word that a row of the table matches has the opcode of the row's pattern. -/
theorem fieldOp_eq_of_row_matches {w : Word} {r : OpcodeRow} (hr : r ∈ opcodeRows) (hw : w &&& r.mask = r.pattern) :
    fieldOp w = fieldOp r.pattern := by
  rw [← hw, fieldOp_and, fieldOp_mask_of_mem_opcodeRows r hr, BitVec.and_allOnes]

theorem legal_iff_exists_row (w : Word) : legal w = true ↔ ∃ r ∈ opcodeRows, w &&& r.mask = r.pattern := by
  simp only [legal, List.any_eq_true, beq_iff_eq]

theorem legal_eq_false_of_reservedOp {w : Word} (hop : ReservedOp (fieldOp w)) : legal w = false := by
  rw [Bool.eq_false_iff, ne_eq, legal_iff_exists_row]
  rintro ⟨r, hr, hw⟩
  rw [fieldOp_eq_of_row_matches hr hw] at hop
  exact not_reservedOp_pattern_of_mem_opcodeRows r hr hop

theorem reservedOp_iff_toNat (op : BitVec 4) : ReservedOp op ↔ op.toNat = 0 ∨ 11 ≤ op.toNat := by
  simp [ReservedOp, BitVec.le_def, BitVec.toNat_eq]

theorem decode_of_reservedOp {w : Word} (hop : ReservedOp (fieldOp w)) :
    decode w = .rejected (.reservedOpcode (fieldOp w)) := by
  rw [reservedOp_iff_toNat] at hop
  unfold decode
  split
  case h_11 => rfl
  all_goals omega

/-- Settles O5: no row of the opcode table has a reserved opcode, and the decoder's last case is the one it takes. -/
theorem reservedOpcodesAreIllegal : Obligations.ReservedOpcodesAreIllegal := by
  intro w hop
  exact ⟨legal_eq_false_of_reservedOp hop, decode_of_reservedOp hop⟩

end Sys2Proof
end

section
/-! Resets (R99): the step in which the schedule's next move is a reset, with no condition on what the block is doing. -/

namespace Sys2Proof.Machine

/-- A move that the schedule lists is the one the step makes; the pulse of `done` ends with it (R51). -/
theorem step_of_agenda_cons {s : State} {mv : Move} {later : List Move} (h : s.agenda = mv :: later) :
    step s = agentMove mv { s with done := false, agenda := later } := by
  simp only [step, nextMove, h]

theorem step_of_agenda_reset {s : State} {a : BitVec 7} {later : List Move} (h : s.agenda = .reset a :: later) :
    step s = .next (applyReset a { s with done := false, agenda := later }) := by
  rw [step_of_agenda_cons h, agentMove]

/-- Settles O57: the step is `applyReset`, whose fields `applyReset_fields` gives in every state. -/
theorem resetSetsTheRegisters : Obligations.ResetSetsTheRegisters := by
  intro s a later hagenda
  refine ⟨_, step_of_agenda_reset hagenda, ?_⟩
  simp only [applyReset_fields, and_self]

end Sys2Proof.Machine
end

section
/-! The command word (R39 to R47): for each command its opcode, the bits it does not use and its operands as fields of a
word. From the three follow the decoder, its agreement with the encoder, and the opcode table. -/

namespace Sys2Proof

/-! ### The fields of a word that is put together from parts -/

theorem fieldOp_or (v w : Word) : fieldOp (v ||| w) = fieldOp v ||| fieldOp w := BitVec.extractLsb'_or

theorem fieldRes_or (v w : Word) : fieldRes (v ||| w) = fieldRes v ||| fieldRes w := BitVec.extractLsb'_or

theorem fieldData_or (v w : Word) : fieldData (v ||| w) = fieldData v ||| fieldData w := BitVec.extractLsb'_or

theorem fieldMode_or (v w : Word) (h : v.extractLsb' 0 1 = 0) : fieldMode (v ||| w) = fieldMode w := by
  simp [fieldMode, BitVec.extractLsb'_or, h]

theorem fieldOp_placeRes (res : BitVec 2) : fieldOp (placeRes res) = 0 := by revert res; decide

theorem fieldRes_placeRes (res : BitVec 2) : fieldRes (placeRes res) = res := by revert res; decide

theorem extractLsb'_zero_placeRes (res : BitVec 2) : (placeRes res).extractLsb' 0 1 = 0 := by revert res; decide

theorem fieldOp_placeMode (m : Mode) : fieldOp (placeMode m) = 0 := by cases m <;> rfl

theorem fieldRes_placeMode (m : Mode) : fieldRes (placeMode m) = 0 := by cases m <;> rfl

theorem fieldMode_placeMode (m : Mode) : fieldMode (placeMode m) = m := by cases m <;> rfl

theorem fieldOp_setWidth (d : Byte) : fieldOp (d.setWidth 16) = 0 := by
  ext k hk
  simp only [fieldOp, BitVec.getElem_extractLsb', BitVec.getLsbD_setWidth, BitVec.getLsbD_of_ge d (12 + k) (by omega),
    Bool.and_false]
  exact (BitVec.getElem_zero hk).symm

theorem fieldData_setWidth (d : Byte) : fieldData (d.setWidth 16) = d := by
  ext k hk
  simp only [fieldData, BitVec.getElem_extractLsb', BitVec.getLsbD_setWidth, Nat.zero_add,
    show k < 16 by omega, decide_true, Bool.true_and, BitVec.getLsbD_eq_getElem hk]

/-! ### A command as opcode, unused bits and operand fields -/

/-- `OP` of a command (R40). -/
def opcodeOf : Instr → BitVec 4
  | .init => 0x1
  | .initRes _ => 0x2
  | .initResMode _ _ => 0x3
  | .getcfg => 0x4
  | .setcfg _ => 0x5
  | .getres => 0x6
  | .setres _ => 0x7
  | .getmode => 0x8
  | .setmode _ => 0x9
  | .readtemp => 0xA

/-- The bits that a command does not use (R44). -/
def unusedBits : Instr → Word
  | .init => 0x0FFF
  | .initRes _ => 0x0CFF
  | .initResMode _ _ => 0x0CFE
  | .getcfg => 0x0FFF
  | .setcfg _ => 0x0F00
  | .getres => 0x0FFF
  | .setres _ => 0x0CFF
  | .getmode => 0x0FFF
  | .setmode _ => 0x0FFE
  | .readtemp => 0x0FFF

/-- The command of the same kind whose operands are the fields of `w` (R41 to R43). -/
def withFieldsOf (w : Word) : Instr → Instr
  | .init => .init
  | .initRes _ => .initRes (fieldRes w)
  | .initResMode _ _ => .initResMode (fieldRes w) (fieldMode w)
  | .getcfg => .getcfg
  | .setcfg _ => .setcfg (fieldData w)
  | .getres => .getres
  | .setres _ => .setres (fieldRes w)
  | .getmode => .getmode
  | .setmode _ => .setmode (fieldMode w)
  | .readtemp => .readtemp

/-- One command of each kind, its operands 0. -/
def kinds : List Instr :=
  [.init, .initRes 0, .initResMode 0 .normal, .getcfg, .setcfg 0, .getres, .setres 0, .getmode, .setmode .normal, .readtemp]

theorem withFieldsOf_zero_mem_kinds (i : Instr) : withFieldsOf 0 i ∈ kinds := by
  cases i <;> simp only [withFieldsOf] <;> decide

/-- The opcodes with the bits their commands do not use: the table of R44. -/
def opcodeFields : List (BitVec 4 × Word) := kinds.map fun i => (opcodeOf i, unusedBits i)

theorem mem_opcodeFields (i : Instr) : (opcodeOf i, unusedBits i) ∈ opcodeFields :=
  List.mem_map.2 ⟨_, withFieldsOf_zero_mem_kinds i, by cases i <;> rfl⟩

theorem exists_of_mem_opcodeFields {p : BitVec 4 × Word} (h : p ∈ opcodeFields) :
    ∃ i, p = (opcodeOf i, unusedBits i) := by
  obtain ⟨i, -, hi⟩ := List.mem_map.1 h
  exact ⟨i, hi.symm⟩

/-- The ten opcodes are those that are not reserved (R40, R45). -/
theorem reservedOp_or_opcodeOf (op : BitVec 4) : ReservedOp op ∨ ∃ i, op = opcodeOf i := by
  have listed : ∀ op : BitVec 4, (op = 0x0 ∨ 0xB ≤ op) ∨ ∃ p ∈ opcodeFields, op = p.1 := by decide
  rcases listed op with h | ⟨p, hp, rfl⟩
  · exact .inl h
  · obtain ⟨i, rfl⟩ := exists_of_mem_opcodeFields hp
    exact .inr ⟨i, rfl⟩

theorem unusedBits_congr {i j : Instr} (h : opcodeOf i = opcodeOf j) : unusedBits i = unusedBits j := by
  have hfun : ∀ p ∈ opcodeFields, ∀ p' ∈ opcodeFields, p.1 = p'.1 → p.2 = p'.2 := by
    simp [opcodeFields, kinds, opcodeOf, unusedBits]
  exact hfun _ (mem_opcodeFields i) _ (mem_opcodeFields j) h

/-- The decoder on a word with the opcode of a command. -/
theorem decode_of_opcode {w : Word} {i : Instr} (h : fieldOp w = opcodeOf i) :
    decode w = ifUnusedZero w (unusedBits i) (withFieldsOf w i) := by
  unfold decode
  rw [h]
  cases i <;> rfl

/-- The decoder accepts exactly the words with a command's opcode whose unused bits are 0. -/
theorem decode_eq_ok_iff_fields (w : Word) (i : Instr) :
    decode w = .ok i ↔ fieldOp w = opcodeOf i ∧ w &&& unusedBits i = 0 ∧ withFieldsOf w i = i := by
  constructor
  · intro h
    rcases reservedOp_or_opcodeOf (fieldOp w) with hr | ⟨j, hj⟩
    · rw [decode_of_reservedOp hr] at h
      cases h
    · rw [decode_of_opcode hj, ifUnusedZero] at h
      split at h
      · obtain rfl := Decoded.ok.inj h
        cases j <;> exact ⟨hj, ‹_›, rfl⟩
      · cases h
  · rintro ⟨hop, hzero, hfields⟩
    rw [decode_of_opcode hop, ifUnusedZero, if_pos hzero, hfields]

/-! ### The decoder reads back an encoding -/

theorem fieldOp_encode (i : Instr) : fieldOp (encode i) = opcodeOf i := by
  cases i <;> simp only [encode, fieldOp_or, fieldOp_placeRes, fieldOp_placeMode, fieldOp_setWidth] <;> rfl

theorem setWidth_and_high (d : Byte) : d.setWidth 16 &&& (0x0F00 : Word) = 0 := by revert d; decide

theorem encode_and_unusedBits (i : Instr) : encode i &&& unusedBits i = 0 := by
  cases i with
  | initRes res => revert res; decide
  | initResMode res m => cases m <;> revert res <;> decide
  | setcfg d =>
    rw [encode, unusedBits, BitVec.and_comm, BitVec.and_or_distrib_left, BitVec.and_comm _ (d.setWidth 16),
      setWidth_and_high]
    rfl
  | setres res => revert res; decide
  | setmode m => cases m <;> rfl
  | _ => rfl

theorem withFieldsOf_encode (i : Instr) : withFieldsOf (encode i) i = i := by
  cases i with
  | initRes res =>
    have hres : fieldRes (0x2000 ||| placeRes res) = res := by
      rw [fieldRes_or, fieldRes_placeRes]
      exact BitVec.zero_or
    rw [withFieldsOf, encode, hres]
  | initResMode res m =>
    have hres : fieldRes (0x3000 ||| placeRes res ||| placeMode m) = res := by
      rw [fieldRes_or, fieldRes_or, fieldRes_placeRes, fieldRes_placeMode]
      exact BitVec.or_zero.trans BitVec.zero_or
    have hmode : fieldMode (0x3000 ||| placeRes res ||| placeMode m) = m := by
      rw [fieldMode_or _ _ _, fieldMode_placeMode]
      rw [BitVec.extractLsb'_or, extractLsb'_zero_placeRes]
      rfl
    rw [withFieldsOf, encode, hres, hmode]
  | setcfg d =>
    have hdata : fieldData (0x5000 ||| d.setWidth 16) = d := by
      rw [fieldData_or, fieldData_setWidth]
      exact BitVec.zero_or
    rw [withFieldsOf, encode, hdata]
  | setres res =>
    have hres : fieldRes (0x7000 ||| placeRes res) = res := by
      rw [fieldRes_or, fieldRes_placeRes]
      exact BitVec.zero_or
    rw [withFieldsOf, encode, hres]
  | setmode m =>
    have hmode : fieldMode (0x9000 ||| placeMode m) = m := by
      rw [fieldMode_or _ _ rfl, fieldMode_placeMode]
    rw [withFieldsOf, encode, hmode]
  | _ => rfl

theorem decode_encode (i : Instr) : decode (encode i) = .ok i :=
  (decode_eq_ok_iff_fields _ _).2 ⟨fieldOp_encode i, encode_and_unusedBits i, withFieldsOf_encode i⟩

/-- Settles O1: opcode, unused bits and operand fields of an encoding are the command's. -/
theorem decodeReadsBackEveryEncoding : Obligations.DecodeReadsBackEveryEncoding := decode_encode

/-! ### A word that decodes is an encoding -/

/-- `OP` in bits [15:12] (R39). -/
def placeOp (op : BitVec 4) : Word := op.setWidth 16 <<< 12

theorem word_eq_placeOp_or (w : Word) : w = placeOp (fieldOp w) ||| (w &&& 0x0FFF) := by
  ext k hk
  simp only [placeOp, fieldOp]
  interval_cases k <;> simp

theorem placeRes_fieldRes (w : Word) : placeRes (fieldRes w) = w &&& 0x0300 := by
  ext k hk
  simp only [placeRes, fieldRes]
  interval_cases k <;> simp

theorem placeMode_fieldMode (w : Word) : placeMode (fieldMode w) = w &&& 0x0001 := by
  have hbit : (fieldMode w).bit = w.extractLsb' 0 1 := by
    unfold fieldMode
    generalize w.extractLsb' 0 1 = b
    revert b
    decide
  rw [placeMode, hbit]
  ext k hk
  interval_cases k <;> simp

theorem setWidth_fieldData (w : Word) : (fieldData w).setWidth 16 = w &&& 0x00FF := by
  ext k hk
  simp only [fieldData]
  interval_cases k <;> simp

/-- The encoding of a command with the operands of `w`: the opcode, and the bits of `w` that the command uses. -/
theorem encode_withFieldsOf (w : Word) (i : Instr) :
    encode (withFieldsOf w i) = placeOp (opcodeOf i) ||| (w &&& (0x0FFF &&& ~~~ unusedBits i)) := by
  cases i <;> simp only [withFieldsOf, encode, placeRes_fieldRes, placeMode_fieldMode, setWidth_fieldData, opcodeOf,
    unusedBits, BitVec.or_assoc, ← BitVec.and_or_distrib_left] <;> simp [placeOp]

theorem and_compl_of_and_eq_zero {w u : Word} (m : Word) (h : w &&& u = 0) : w &&& (m &&& ~~~ u) = w &&& m := by
  have hcompl : w &&& ~~~ u = w := by
    calc w &&& ~~~ u = w &&& u ||| w &&& ~~~ u := by rw [h]; exact BitVec.zero_or.symm
      _ = w := by rw [← BitVec.and_or_distrib_left, BitVec.or_not_self, BitVec.and_allOnes]
  rw [BitVec.and_comm m, ← BitVec.and_assoc, hcompl]

/-- Decoding and encoding are inverse to each other. -/
theorem decode_eq_ok_iff (w : Word) (i : Instr) : decode w = .ok i ↔ encode i = w := by
  refine ⟨fun h => ?_, fun h => h ▸ decode_encode i⟩
  obtain ⟨hop, hzero, hfields⟩ := (decode_eq_ok_iff_fields w i).1 h
  calc encode i = encode (withFieldsOf w i) := by rw [hfields]
    _ = placeOp (opcodeOf i) ||| (w &&& 0x0FFF) := by rw [encode_withFieldsOf, and_compl_of_and_eq_zero _ hzero]
    _ = w := by rw [← hop, ← word_eq_placeOp_or]

/-- Settles O2. -/
theorem decodedWordIsTheEncoding : Obligations.DecodedWordIsTheEncoding := fun w i => (decode_eq_ok_iff w i).1

/-! ### The opcode table -/

/-- The row of the opcode table for a command: it compares the opcode and the unused bits (R44, R46). -/
def rowOf (i : Instr) : OpcodeRow := ⟨i.mnemonic, 0xF000 ||| unusedBits i, placeOp (opcodeOf i)⟩

theorem opcodeRows_eq_map : opcodeRows = kinds.map rowOf := by
  simp [opcodeRows, kinds, rowOf, unusedBits, opcodeOf, placeOp, Instr.mnemonic]

theorem exists_rowOf_of_mem_opcodeRows {r : OpcodeRow} (h : r ∈ opcodeRows) : ∃ i, r = rowOf i := by
  rw [opcodeRows_eq_map] at h
  obtain ⟨i, -, hi⟩ := List.mem_map.1 h
  exact ⟨i, hi.symm⟩

theorem rowOf_mem_opcodeRows (i : Instr) : rowOf i ∈ opcodeRows := by
  rw [opcodeRows_eq_map]
  exact List.mem_map.2 ⟨_, withFieldsOf_zero_mem_kinds i, by cases i <;> rfl⟩

theorem fieldOp_placeOp (op : BitVec 4) : fieldOp (placeOp op) = op := by revert op; decide

theorem placeOp_fieldOp (w : Word) : placeOp (fieldOp w) = w &&& 0xF000 := by
  ext k hk
  simp only [placeOp, fieldOp]
  interval_cases k <;> simp

/-- The bits under the mask of a row: the opcode, and the unused bits. -/
theorem row_matches_iff (w : Word) (i : Instr) :
    w &&& (rowOf i).mask = (rowOf i).pattern ↔ fieldOp w = opcodeOf i ∧ w &&& unusedBits i = 0 := by
  have disjoint : ∀ p ∈ opcodeFields, (0xF000 ||| p.2) &&& p.2 = p.2 ∧ placeOp p.1 &&& p.2 = 0 := by
    simp [opcodeFields, kinds, opcodeOf, unusedBits, placeOp]
  obtain ⟨hmask, hpattern⟩ := disjoint _ (mem_opcodeFields i)
  have hsplit : w &&& (rowOf i).mask = placeOp (fieldOp w) ||| (w &&& unusedBits i) := by
    rw [rowOf, BitVec.and_or_distrib_left, placeOp_fieldOp]
  constructor
  · intro h
    have hunused : w &&& unusedBits i = 0 := by
      calc w &&& unusedBits i = w &&& (rowOf i).mask &&& unusedBits i := by rw [BitVec.and_assoc, rowOf, hmask]
        _ = 0 := by rw [h, rowOf, hpattern]
    rw [hsplit, hunused, rowOf] at h
    have hop := congrArg fieldOp (BitVec.or_zero.symm.trans h)
    exact ⟨by rwa [fieldOp_placeOp, fieldOp_placeOp] at hop, hunused⟩
  · rintro ⟨hop, hunused⟩
    rw [hsplit, hop, hunused]
    exact BitVec.or_zero

/-- A word is legal exactly when it has a command's opcode and the command's unused bits are 0 (R44, R46). -/
theorem legal_iff_fields (w : Word) : legal w = true ↔ ∃ i, fieldOp w = opcodeOf i ∧ w &&& unusedBits i = 0 := by
  rw [legal_iff_exists_row]
  constructor
  · rintro ⟨r, hr, hw⟩
    obtain ⟨i, rfl⟩ := exists_rowOf_of_mem_opcodeRows hr
    exact ⟨i, (row_matches_iff w i).1 hw⟩
  · rintro ⟨i, hi⟩
    exact ⟨rowOf i, (rowOf_mem_opcodeRows i), (row_matches_iff w i).2 hi⟩

theorem legal_iff_decodes (w : Word) : legal w = true ↔ ∃ i, decode w = .ok i := by
  rw [legal_iff_fields]
  constructor
  · rintro ⟨i, hop, hzero⟩
    exact ⟨_, by rw [decode_of_opcode hop, ifUnusedZero, if_pos hzero]⟩
  · rintro ⟨i, hi⟩
    obtain ⟨hop, hzero, -⟩ := (decode_eq_ok_iff_fields w i).1 hi
    exact ⟨i, hop, hzero⟩

/-- Commands with the same opcode have the same row. -/
theorem rowOf_congr {i j : Instr} (h : opcodeOf i = opcodeOf j) : rowOf i = rowOf j := by
  have hrows : ∀ r ∈ opcodeRows, ∀ r' ∈ opcodeRows, r.pattern = r'.pattern → r = r' := by decide
  exact hrows _ ((rowOf_mem_opcodeRows i)) _ ((rowOf_mem_opcodeRows j)) (congrArg placeOp h)

/-- Settles O3: a row that is the word's is the row of the word's opcode. -/
theorem legalWordsAreTheTableRows : Obligations.LegalWordsAreTheTableRows := by
  intro w
  refine ⟨legal_iff_decodes w, fun i r hi hr hw => ?_, fun r hr r' hr' hw hw' => ?_⟩
  · obtain ⟨j, rfl⟩ := exists_rowOf_of_mem_opcodeRows hr
    have hj := ((row_matches_iff w j).1 hw).1
    have hi := ((decode_eq_ok_iff_fields w i).1 hi).1
    exact congrArg OpcodeRow.mnemonic (rowOf_congr (hj.symm.trans hi))
  · obtain ⟨i, rfl⟩ := exists_rowOf_of_mem_opcodeRows hr
    obtain ⟨j, rfl⟩ := exists_rowOf_of_mem_opcodeRows hr'
    exact rowOf_congr (((row_matches_iff w i).1 hw).1.symm.trans ((row_matches_iff w j).1 hw').1)

theorem legal_iff_of_opcode (i : Instr) {w : Word} (h : fieldOp w = opcodeOf i) :
    legal w = true ↔ w &&& unusedBits i = 0 := by
  rw [legal_iff_fields]
  constructor
  · rintro ⟨j, hop, hzero⟩
    rwa [unusedBits_congr (h.symm.trans hop)]
  · exact fun hzero => ⟨i, h, hzero⟩

/-- Settles O6: the table of R44 lists the opcode and the unused bits of each command. -/
theorem unusedBitsMustBeZero : Obligations.UnusedBitsMustBeZero := by
  intro p hp w hw
  obtain ⟨i, rfl⟩ := exists_of_mem_opcodeFields hp
  exact legal_iff_of_opcode i hw

/-! ### The number of legal words -/

/-- The values of the operand `RES` (R41). -/
def resValues : List (BitVec 2) := [0, 1, 2, 3]

/-- The values of the operand `DATA` (R42). -/
def dataValues : List Byte := (List.range 256).map (BitVec.ofNat 8)

/-- Every command but SETCFG, at every operand value. -/
def shortCommands : List Instr :=
  [.init, .getcfg, .getres, .getmode, .readtemp, .setmode .normal, .setmode .shutdown] ++ resValues.map .initRes ++
    resValues.map .setres ++ resValues.map (.initResMode · .normal) ++ resValues.map (.initResMode · .shutdown)

/-- Every command at every operand value. -/
def allCommands : List Instr := shortCommands ++ dataValues.map .setcfg

theorem length_allCommands : allCommands.length = 279 := by
  simp [allCommands, shortCommands, resValues, dataValues]

theorem mem_resValues (res : BitVec 2) : res ∈ resValues := by revert res; decide

theorem mem_dataValues (d : Byte) : d ∈ dataValues := List.mem_map.2 ⟨d.toNat, List.mem_range.2 d.isLt, by simp⟩

theorem mem_allCommands (i : Instr) : i ∈ allCommands := by
  cases i with
  | initResMode res m => cases m <;> simp [allCommands, shortCommands, mem_resValues]
  | setmode m => cases m <;> simp [allCommands, shortCommands]
  | _ => simp [allCommands, shortCommands, mem_resValues, mem_dataValues]

theorem nodup_dataValues : dataValues.Nodup := by
  refine List.Nodup.map_on (fun x hx y hy h => ?_) List.nodup_range
  have h := congrArg BitVec.toNat h
  rwa [BitVec.toNat_ofNat, BitVec.toNat_ofNat, Nat.mod_eq_of_lt (List.mem_range.1 hx),
    Nat.mod_eq_of_lt (List.mem_range.1 hy)] at h

theorem nodup_allCommands : allCommands.Nodup := by
  refine List.nodup_append'.2 ⟨by decide, nodup_dataValues.map fun _ _ => Instr.setcfg.inj, fun i hi hi' => ?_⟩
  obtain ⟨d, -, rfl⟩ := List.mem_map.1 hi'
  simp [shortCommands] at hi

theorem encode_injective : Function.Injective encode := fun i j h =>
  Decoded.ok.inj ((decode_encode i).symm.trans ((congrArg decode h).trans (decode_encode j)))

theorem legal_iff_encode (w : Word) : legal w = true ↔ ∃ i, encode i = w := by
  simp only [legal_iff_decodes, decode_eq_ok_iff]

/-- The legal words, as numbers, are the words of the commands. -/
theorem filter_legal_perm :
    ((List.range 65536).filter fun n => legal (BitVec.ofNat 16 n)).Perm (allCommands.map fun i => (encode i).toNat) := by
  have hinj : Function.Injective fun i => (encode i).toNat := fun i j h => encode_injective (BitVec.eq_of_toNat_eq h)
  refine (List.perm_ext_iff_of_nodup (List.nodup_range.filter _) (nodup_allCommands.map hinj)).2 fun n => ?_
  simp only [List.mem_filter, List.mem_range, legal_iff_encode, List.mem_map, mem_allCommands, true_and]
  constructor
  · rintro ⟨hn, i, hi⟩
    exact ⟨i, by rw [hi, BitVec.toNat_ofNat, Nat.mod_eq_of_lt hn]⟩
  · rintro ⟨i, rfl⟩
    exact ⟨(encode i).isLt, i, by simp⟩

/-- Settles O4: the legal words are the words of the 279 commands. -/
theorem legalWordCount : Obligations.LegalWordCount := by
  rw [Obligations.LegalWordCount, List.countP_eq_length_filter, filter_legal_perm.length_eq, List.length_map,
    length_allCommands]

/-! ### The assembler (R47) and the words of the spec -/

theorem assemble_of_wellFormed {a : Asm} (h : a.wellFormed = true) : assemble a = some (encode a.toInstr) := if_pos h

theorem assemble_of_not_wellFormed {a : Asm} (h : a.wellFormed = false) : assemble a = none := by simp [assemble, h]

theorem resolutionOk_iff (res : Nat) : resolutionOk res = true ↔ 9 ≤ res ∧ res ≤ 12 := by simp [resolutionOk]

/-- The code of a resolution in its place in the word. -/
theorem placeRes_resolutionCode {res : Nat} (h : res ≤ 12) :
    placeRes (resolutionCode res) = BitVec.ofNat 16 ((res - 9) <<< 8) := by
  interval_cases res <;> rfl

theorem setWidth_ofNat_byte {n : Nat} (h : n ≤ 0xFF) : (BitVec.ofNat 8 n).setWidth 16 = BitVec.ofNat 16 n := by
  apply BitVec.eq_of_toNat_eq
  simp
  omega

/-- Settles O7. -/
theorem assemblerWords : Obligations.AssemblerWords := by
  refine ⟨rfl, rfl, rfl, rfl, rfl, fun m => rfl, fun n hn => ?_, fun n hn => ?_, fun res m hlow hhigh => ?_,
    fun res m h => ?_⟩
  · rw [assemble_of_wellFormed (by simpa [Asm.wellFormed, byteOk] using hn), Asm.toInstr, encode, setWidth_ofNat_byte hn]
  · exact assemble_of_not_wellFormed (by simpa [Asm.wellFormed, byteOk] using hn)
  · have hok := (resolutionOk_iff res).2 ⟨hlow, hhigh⟩
    simp only [assemble_of_wellFormed (a := .initRes res) hok, assemble_of_wellFormed (a := .initResMode res m) hok,
      assemble_of_wellFormed (a := .setres res) hok, Asm.toInstr, encode, placeRes_resolutionCode hhigh, placeMode]
    exact ⟨rfl, rfl, rfl⟩
  · have hok : resolutionOk res = false := by
      rw [Bool.eq_false_iff, ne_eq, resolutionOk_iff]
      omega
    exact ⟨assemble_of_not_wellFormed hok, assemble_of_not_wellFormed hok, assemble_of_not_wellFormed hok⟩

/-- Settles O8: each word is the encoding of its command. -/
theorem wordsOfTheSpecDecode : Obligations.WordsOfTheSpecDecode := by
  simp only [Obligations.WordsOfTheSpecDecode, decode_eq_ok_iff]
  decide

end Sys2Proof
end

section
/-! Whose turn it is (R2, R49 to R52): a step is one agent's move on the state in which the pulse of `done` has ended. What
the block's turn is in each of its cases, and what a step of the block leaves as it was. -/

namespace Sys2Proof.Machine

/-- The agent that moves in the next step (R2): the first that the schedule lists, else the block. -/
def nextAgent (s : State) : Move := s.agenda.headD .block

/-- The state in which that agent moves: the pulse of `done` has ended, and the move is taken from the schedule. -/
def moving (s : State) : State := { s with done := false, agenda := s.agenda.tail }

theorem step_eq_agentMove (s : State) : step s = agentMove (nextAgent s) (moving s) := by
  unfold step nextMove nextAgent moving
  cases h : s.agenda <;> rfl

/-- It is the block's turn: nothing is listed, or the block is. -/
abbrev BlocksTurn (s : State) : Prop := s.agenda = [] ∨ ∃ later, s.agenda = .block :: later

theorem nextAgent_of_blocksTurn {s : State} (h : BlocksTurn s) : nextAgent s = .block := by
  rcases h with h | ⟨later, h⟩ <;> simp [nextAgent, h]

theorem blocksTurn_of_nextAgent {s : State} (h : nextAgent s = .block) : BlocksTurn s := by
  unfold nextAgent at h
  cases ha : s.agenda with
  | nil => exact .inl ha
  | cons mv later =>
    rw [ha] at h
    exact .inr ⟨later, by rw [ha, ← h]; rfl⟩

theorem step_of_blocksTurn {s : State} (h : BlocksTurn s) : step s = blockTurn (moving s) := by
  rw [step_eq_agentMove, nextAgent_of_blocksTurn h, agentMove]

theorem moving_of_agenda_nil {s : State} (h : s.agenda = []) : moving s = { s with done := false } := by
  simp [moving, h]

theorem moving_of_agenda_cons {s : State} {mv : Move} {later : List Move} (h : s.agenda = mv :: later) :
    moving s = { s with done := false, agenda := later } := by
  simp [moving, h]

/-! ### The block's turn -/

theorem blockTurn_accepts {s : State} {w : Word} {rest : List Word} (hidle : s.seq = .idle) (hw : s.offers = w :: rest) :
    blockTurn s = .next (accept w { s with offers := rest }) := by
  simp [blockTurn, hidle, hw]

theorem blockTurn_stays {s : State} (hidle : s.seq = .idle) (hw : s.offers = []) : blockTurn s = .next s := by
  simp [blockTurn, hidle, hw]

theorem blockTurn_busy {s : State} (hbusy : s.seq = .busy) : blockTurn s = runLatched s := by
  simp [blockTurn, hbusy]

theorem runLatched_of_ok {s : State} {i : Instr} (h : decode s.cmd = .ok i) : runLatched s = exec i s := by
  simp [runLatched, h]

theorem runLatched_of_rejected {s : State} {why : Reject} (h : decode s.cmd = .rejected why) :
    runLatched s = .next (raiseIllegal s) := by
  simp [runLatched, h]

/-- Everything the turn of a BUSY block can do: a command's work, or the raising of ILLEGAL. -/
theorem runLatched_cases {s t : State} (h : runLatched s = .next t) :
    (∃ i, decode s.cmd = .ok i ∧ exec i s = .next t) ∨ ((∀ i, decode s.cmd ≠ .ok i) ∧ t = raiseIllegal s) := by
  cases hd : decode s.cmd with
  | ok i => exact .inl ⟨i, rfl, by rwa [runLatched_of_ok hd] at h⟩
  | rejected why =>
    rw [runLatched_of_rejected hd] at h
    exact .inr ⟨fun i => by simp, (Host.Outcome.next.inj h).symm⟩

/-- The frame of a BUSY block's turn: that of a command (R6, R33, R35, R49). -/
theorem runLatched_frame {s t : State} (h : runLatched s = .next t) : RunFrame s t := by
  rcases runLatched_cases h with ⟨i, -, he⟩ | ⟨-, rfl⟩
  · exact exec_runFrame he
  · exact raiseOutcome_frame _ _ _ _

/-- Settles O9. -/
theorem stepAcceptsTheOfferedWord : Obligations.StepAcceptsTheOfferedWord := by
  refine ⟨fun s w rest hidle hw => ⟨fun ha => ?_, fun later ha => ?_⟩,
    fun s hidle hw => ⟨fun ha => ?_, fun later ha => ?_⟩, fun s w later ha => ?_⟩
  · rw [step_of_blocksTurn (.inl ha), moving_of_agenda_nil ha]
    exact blockTurn_accepts (s := { s with done := false }) hidle hw
  · rw [step_of_blocksTurn (.inr ⟨later, ha⟩), moving_of_agenda_cons ha]
    exact blockTurn_accepts (s := { s with done := false, agenda := later }) hidle hw
  · rw [step_of_blocksTurn (.inl ha), moving_of_agenda_nil ha]
    exact blockTurn_stays (s := { s with done := false }) hidle hw
  · rw [step_of_blocksTurn (.inr ⟨later, ha⟩), moving_of_agenda_cons ha]
    exact blockTurn_stays (s := { s with done := false, agenda := later }) hidle hw
  · rw [step_of_agenda_cons ha, agentMove]

/-- In its turn a BUSY block with a legal word in its latch runs the command of that word. -/
theorem step_runs_latched {s : State} {i : Instr} (hbusy : s.seq = .busy) (hd : decode s.cmd = .ok i)
    (h : BlocksTurn s) : step s = exec i (moving s) := by
  rw [step_of_blocksTurn h, blockTurn_busy (s := moving s) hbusy, runLatched_of_ok (s := moving s) hd]

/-- Settles O10. -/
theorem stepRunsTheLatchedCommand : Obligations.StepRunsTheLatchedCommand := by
  refine fun s i hbusy hd => ⟨fun ha => ?_, fun later ha => ?_⟩
  · rw [step_runs_latched hbusy hd (.inl ha), moving_of_agenda_nil ha]
  · rw [step_runs_latched hbusy hd (.inr ⟨later, ha⟩), moving_of_agenda_cons ha]

/-- With no request outstanding an outcome writes STATUS, `S.state` and `done` alone (R51, R87). -/
theorem raiseOutcome_of_none {s : State} (code : OutcomeCode) (x : Byte) (k : BitVec 4) (h : s.outstanding = none) :
    raiseOutcome code x k s = { s with status := statusWord x k code, seq := .idle, done := true } := by
  rw [raiseOutcome, ← h]

theorem step_raises_illegal {s : State} (hready : Ready s) (hillegal : legal s.cmd = false) (h : BlocksTurn s) :
    step s = .next { moving s with status := 0x0003, seq := .idle, done := true } := by
  obtain ⟨hbusy, -, hout, -⟩ := hready
  have hd : ∃ why, decode s.cmd = .rejected why := by
    cases hd : decode s.cmd with
    | ok i => simp [(legal_iff_decodes _).2 ⟨i, hd⟩] at hillegal
    | rejected why => exact ⟨why, rfl⟩
  obtain ⟨why, hd⟩ := hd
  rw [step_of_blocksTurn h, blockTurn_busy (s := moving s) hbusy, runLatched_of_rejected (s := moving s) hd, raiseIllegal,
    raiseOutcome_of_none (s := moving s) _ _ _ hout]
  rfl

/-- Settles O11. -/
theorem illegalWordCompletesIllegal : Obligations.IllegalWordCompletesIllegal := by
  refine fun s hready hillegal => ⟨fun ha => ?_, fun later ha => ?_⟩
  · rw [step_raises_illegal hready hillegal (.inl ha), moving_of_agenda_nil ha]
  · rw [step_raises_illegal hready hillegal (.inr ⟨later, ha⟩), moving_of_agenda_cons ha]

/-- The turn of a BUSY block. -/
theorem step_busy_turn {s : State} (hbusy : s.seq = .busy) (h : BlocksTurn s) : step s = runLatched (moving s) := by
  rw [step_of_blocksTurn h, blockTurn_busy (s := moving s) hbusy]

/-- Settles O12: the frame of the turn. -/
theorem offerWaitsWhileBusy : Obligations.OfferWaitsWhileBusy := by
  intro s t hbusy hturn hstep
  rw [step_busy_turn hbusy hturn] at hstep
  exact ⟨(runLatched_frame hstep).offers, (runLatched_frame hstep).cmd⟩

/-! ### What a command or a step leaves as it was -/

/-- Settles O52. -/
theorem commandsTouchOnlyConfiguration : Obligations.CommandsTouchOnlyConfiguration := fun _ _ _ he =>
  (exec_runFrame he).memOther

/-- Settles O54. -/
theorem commandFrame : Obligations.CommandFrame := fun _ _ _ he =>
  let frame := exec_runFrame he
  ⟨frame.addr, frame.cmd, frame.offers, frame.agenda, frame.sent⟩

/-- A sequence without a write of a register. -/
def WritesNothing (as : List MicroOp) : Prop := ∀ r e kept, MicroOp.write r e kept ∉ as

theorem WritesNothing.tail {a : MicroOp} {as : List MicroOp} (h : WritesNothing (a :: as)) : WritesNothing as :=
  fun r e kept hm => h r e kept (List.mem_cons_of_mem _ hm)

/-- The request of an action that writes no register is no `WRITE1`. -/
theorem requestOf_kind_ne_write1 {a : MicroOp} {s : State} {q : TransportRequest} (ha : ∀ r e kept, a ≠ .write r e kept)
    (hq : requestOf a s = some (.transport q)) : q.kind ≠ .write1 := by
  cases a with
  | write r e kept => exact absurd rfl (ha r e kept)
  | cache m => cases hq
  | settle => cases hq
  | _ => cases hq; simp

theorem keptByte_of_not_write {a : MicroOp} (s : State) (ha : ∀ r e kept, a ≠ .write r e kept) : keptByte a s = none := by
  cases a with
  | write r e kept => exact absurd rfl (ha r e kept)
  | _ => rfl

/-- A request that is no `WRITE1` leaves the registers, whatever its response. -/
theorem answered_mem_of_not_write1 {q : Request} (s : State) (h : ∀ t, q = .transport t → t.kind ≠ .write1) :
    (answered q s).mem = s.mem := by
  cases q with
  | delay ms => simp [answered]
  | transport t =>
    cases hans : s.answers with
    | nil => simp [answered, hans]
    | cons rsp rest => simp [answered, hans, memoryAfter_of_kind t rsp _ (h t rfl)]

/-- A run that writes no register leaves memory as it was. -/
theorem run_mem (f : Finish) (as : List MicroOp) (s : State) (h : WritesNothing as) : (run f as s).mem = s.mem := by
  induction as generalizing s with
  | nil => simp [run_nil]
  | cons a rest ih =>
    cases hq : requestOf a s with
    | none => rw [run_internal f a rest s hq, ih _ h.tail]; simp
    | some q =>
      have ha : ∀ r e kept, a ≠ .write r e kept := fun r e kept he => h r e kept (he ▸ List.mem_cons_self ..)
      have hmem := answered_mem_of_not_write1 (q := q) s fun t ht => requestOf_kind_ne_write1 ha (ht ▸ hq)
      rw [run_request f a rest s q hq]
      rcases issue_cases q s with ⟨hi, -⟩ | ⟨bytes, hi, -⟩ | ⟨t, rsp, r, xs, -, -, -, hi⟩ | ⟨t, rsp, r, -, -, -, hi⟩ <;>
        simp only [hi]
      · simp
      · rw [ih _ h.tail]; simpa using hmem
      · rw [keepBits_of_none _ _ _ (keptByte_of_not_write s ha)]; simpa using hmem
      · rw [keepBits_of_none _ _ _ (keptByte_of_not_write s ha)]; simpa using hmem

/-- Settles O53: none of the five sequences has a write. -/
theorem readingCommandsKeepMemory : Obligations.ReadingCommandsKeepMemory := by
  intro i s t hi he
  have hnone : WritesNothing (sequenceOf i s.modeCache) := by
    rcases hi with rfl | rfl | rfl | rfl | ⟨rfl, hm⟩
    case inr.inr.inr.inr => simp [WritesNothing, sequenceOf, hm, readtempSequence]
    all_goals simp [WritesNothing, sequenceOf, initSequence, getcfgSequence, getresSequence, getmodeSequence, restorePtr]
  rw [exec_next_eq he]
  exact run_mem _ _ _ fun r e kept hm => hnone r e kept (remaining_subset _ _ _ hm)

/-- What is left of a sequence without a cache write has none (R7). -/
theorem hasCache_remaining (as : List MicroOp) (s : State) (h : hasCache as = false) : hasCache (remaining as s) = false := by
  rw [hasCache, List.any_eq_false] at h ⊢
  exact fun a ha => h a (remaining_subset as s a ha)

theorem exec_modeCache {i : Instr} {s t : State} (h : writesCache i = false) (he : exec i s = .next t) :
    t.modeCache = s.modeCache := by
  rw [exec_next_eq he]
  exact run_modeCache _ _ _ (hasCache_remaining _ _ (hasCache_sequenceOf i _ h))

/-- Settles O41. -/
theorem onlyFourCommandsWriteTheCache : Obligations.OnlyFourCommandsWriteTheCache := fun _ _ _ => exec_modeCache

theorem writesCache_cases {i : Instr} (h : writesCache i = true) :
    i = .init ∨ (∃ res, i = .initRes res) ∨ (∃ res m, i = .initResMode res m) ∨ ∃ m, i = .setmode m := by
  cases i <;> simp_all [writesCache]

/-- What the move of an agent other than the block and the host's reset leaves as it was. -/
structure AgentFrame (s t : State) : Prop where
  addr : t.addr = s.addr
  modeCache : t.modeCache = s.modeCache
  seq : t.seq = s.seq
  cmd : t.cmd = s.cmd
  stepIdx : t.stepIdx = s.stepIdx
  outstanding : t.outstanding = s.outstanding
  done : t.done = s.done
  /-- a response that is there is not taken away -/
  answered : ∀ q, Answered q s → Answered q t

theorem answered_takeAnswer (rsp : Response) (s : State) (q : Request) (h : Answered q s) :
    Answered q (takeAnswer rsp s) := by
  cases q with
  | delay ms => simpa [Answered] using h
  | transport t =>
    cases hl : s.lateRequests with
    | nil => simp [Answered, takeAnswer_of_none_late rsp s hl]
    | cons p late => simpa [Answered, takeAnswer_of_late rsp s p late hl] using h

theorem answered_takeCompletion (s : State) (q : Request) (h : Answered q s) : Answered q (takeCompletion s) := by
  cases q with
  | transport t => simpa [Answered] using h
  | delay ms =>
    unfold takeCompletion
    split
    · simp [Answered]
    · simpa [Answered] using h

theorem agentMove_frame {mv : Move} {s t : State} (hblock : mv ≠ .block) (hreset : ∀ a, mv ≠ .reset a)
    (h : agentMove mv s = .next t) : AgentFrame s t := by
  cases mv with
  | block => exact absurd rfl hblock
  | reset a => exact absurd rfl (hreset a)
  | offer w => obtain rfl := Host.Outcome.next.inj h; constructor <;> simp [Answered]
  | answer rsp =>
    obtain rfl := Host.Outcome.next.inj h
    exact { answered := answered_takeAnswer rsp s, addr := by simp, modeCache := by simp, seq := by simp, cmd := by simp,
            stepIdx := by simp, outstanding := by simp, done := by simp }
  | delayDone =>
    obtain rfl := Host.Outcome.next.inj h
    exact { answered := answered_takeCompletion s, addr := by simp, modeCache := by simp, seq := by simp, cmd := by simp,
            stepIdx := by simp, outstanding := by simp, done := by simp }
  | sensor cfg => obtain rfl := Host.Outcome.next.inj h; constructor <;> simp [Answered]
  | convert w => obtain rfl := Host.Outcome.next.inj h; constructor <;> simp [Answered]
  | other q rsp => obtain rfl := Host.Outcome.next.inj h; constructor <;> simp [Answered]

/-- Everything a step can do, by the agent that moves: the host resets the block; the block works on its command; the block
accepts or stays IDLE; another agent moves. -/
theorem step_cases {s t : State} (h : step s = .next t) :
    (∃ a later, s.agenda = .reset a :: later ∧ t = applyReset a (moving s)) ∨
    (s.seq = .busy ∧ BlocksTurn s ∧ runLatched (moving s) = .next t) ∨
    (s.seq = .idle ∧ BlocksTurn s ∧ blockTurn (moving s) = .next t) ∨
    (nextAgent s ≠ .block ∧ agentMove (nextAgent s) (moving s) = .next t ∧ AgentFrame (moving s) t) := by
  rw [step_eq_agentMove] at h
  by_cases hblock : nextAgent s = .block
  · have hturn := blocksTurn_of_nextAgent hblock
    rw [hblock, agentMove] at h
    cases hseq : s.seq with
    | busy => exact .inr (.inl ⟨rfl, hturn, by rwa [blockTurn_busy (s := moving s) hseq] at h⟩)
    | idle => exact .inr (.inr (.inl ⟨rfl, hturn, h⟩))
  · by_cases hreset : ∃ a, nextAgent s = .reset a
    · obtain ⟨a, ha⟩ := hreset
      obtain ⟨later, hlater⟩ : ∃ later, s.agenda = .reset a :: later := by
        unfold nextAgent at ha
        cases hl : s.agenda <;> simp_all
      rw [ha] at h
      exact .inl ⟨a, later, hlater, (Host.Outcome.next.inj h).symm⟩
    · exact .inr (.inr (.inr ⟨hblock, h, agentMove_frame hblock (fun a ha => hreset ⟨a, ha⟩) h⟩))

/-- The turn of an IDLE block: it accepts, or nothing changes. -/
theorem blockTurn_idle_cases {s t : State} (hidle : s.seq = .idle) (h : blockTurn s = .next t) :
    t = s ∨ ∃ w rest, s.offers = w :: rest ∧ t = accept w { s with offers := rest } := by
  cases hw : s.offers with
  | nil => rw [blockTurn_stays hidle hw] at h; exact .inl (Host.Outcome.next.inj h).symm
  | cons w rest =>
    rw [blockTurn_accepts hidle hw] at h
    exact .inr ⟨w, rest, rfl, (Host.Outcome.next.inj h).symm⟩

/-- Settles O55. -/
theorem addressChangesOnlyInReset : Obligations.AddressChangesOnlyInReset := by
  intro s t h hne
  rcases step_cases h with ⟨a, later, ha, rfl⟩ | ⟨-, -, hrun⟩ | ⟨hidle, -, hturn⟩ | ⟨-, -, frame⟩
  · exact ⟨later, by rw [ha, (applyReset_fields a (moving s)).1]⟩
  · exact absurd (runLatched_frame hrun).addr hne
  · rcases blockTurn_idle_cases (s := moving s) hidle hturn with rfl | ⟨w, rest, -, rfl⟩
    · exact absurd rfl hne
    · exact absurd rfl hne
  · exact absurd frame.addr hne

/-- Settles O42: in its turn a BUSY block changes the cache only in a command that writes it. -/
theorem cacheChangesOnlyInItsCommands : Obligations.CacheChangesOnlyInItsCommands := by
  intro s t h hne
  rcases step_cases h with ⟨a, later, ha, -⟩ | ⟨hbusy, hturn, hrun⟩ | ⟨hidle, -, hturn⟩ | ⟨-, -, frame⟩
  · exact .inl ⟨a, later, ha⟩
  · refine .inr ⟨hbusy, hturn, (runLatched_frame hrun).cmd, ?_⟩
    rcases runLatched_cases hrun with ⟨i, hd, he⟩ | ⟨-, rfl⟩
    · refine ⟨i, hd, writesCache_cases ?_⟩
      by_contra hw
      exact hne (exec_modeCache (s := moving s) (by simpa using hw) he)
    · exact absurd rfl hne
  · rcases blockTurn_idle_cases (s := moving s) hidle hturn with rfl | ⟨w, rest, -, rfl⟩
    · exact absurd rfl hne
    · exact absurd rfl hne
  · exact absurd frame.modeCache hne

end Sys2Proof.Machine
end

section
/-! The invariant of the machine (R8 to R11, R13, R33, R49 to R52, R84, R100): every agent's move keeps it. -/

namespace Sys2Proof.Machine

/-! ### The fields of STATUS (R9, R84) -/

@[simp] theorem statusCode_statusWord (x : Byte) (k : BitVec 4) (code : OutcomeCode) :
    statusCode (statusWord x k code) = code.bits := BitVec.extractLsb'_append_eq_right

@[simp] theorem statusReserved_statusWord (x : Byte) (k : BitVec 4) (code : OutcomeCode) :
    statusReserved (statusWord x k code) = 0 :=
  (BitVec.extractLsb'_append_eq_of_le (by decide)).trans BitVec.extractLsb'_append_eq_right

@[simp] theorem statusStep_statusWord (x : Byte) (k : BitVec 4) (code : OutcomeCode) :
    statusStep (statusWord x k code) = k :=
  (BitVec.extractLsb'_append_eq_of_le (by decide)).trans
    ((BitVec.extractLsb'_append_eq_of_le (by decide)).trans BitVec.extractLsb'_append_eq_right)

@[simp] theorem statusXcode_statusWord (x : Byte) (k : BitVec 4) (code : OutcomeCode) :
    statusXcode (statusWord x k code) = x :=
  (BitVec.extractLsb'_append_eq_of_le (by decide)).trans
    ((BitVec.extractLsb'_append_eq_of_le (by decide)).trans BitVec.extractLsb'_append_eq_left)

/-- Settles O18. -/
theorem statusFields : Obligations.StatusFields := fun x k code =>
  ⟨statusCode_statusWord x k code, statusReserved_statusWord x k code, statusStep_statusWord x k code,
    statusXcode_statusWord x k code, rfl, rfl, rfl, rfl⟩

theorem OutcomeCode.bits_injective {c c' : OutcomeCode} (h : c.bits = c'.bits) : c = c' := by
  revert h
  cases c <;> cases c' <;> decide

/-- The word of an outcome has the form of R84, if XCODE is not 0 exactly for BUS_ERR and STEP is 0 for OK and ILLEGAL. -/
theorem statusWellFormed_statusWord {x : Byte} {k : BitVec 4} {code : OutcomeCode} (hx : x ≠ 0 ↔ code = .busErr)
    (hk : code = .ok ∨ code = .illegal → k = 0) : StatusWellFormed (statusWord x k code) := by
  refine ⟨by simp, ?_, ?_, ?_, ?_⟩
  · rw [statusCode_statusWord]; cases code <;> decide
  · rw [statusXcode_statusWord, statusCode_statusWord, hx]
    exact ⟨congrArg _, OutcomeCode.bits_injective⟩
  · rw [statusCode_statusWord, statusStep_statusWord]
    exact fun h => hk (.inl (OutcomeCode.bits_injective h))
  · rw [statusCode_statusWord, statusStep_statusWord]
    exact fun h => hk (.inr (OutcomeCode.bits_injective h))

theorem statusWellFormed_zero : StatusWellFormed 0x0000 := by decide

/-! ### Abandoned requests (R100) -/

/-- The clauses of the invariant on abandoned requests. -/
structure LateOk (s : State) : Prop where
  answers : s.lateRequests = [] ∨ s.answers = []
  completions : s.lateDelays = 0 ∨ s.completions = 0
  pointer : pointerInDoubt s = true → s.devPtr = .unknown
  config : ∀ q ∈ s.lateRequests, q.kind = .write1 → q.ptr = Config.ptrConfig → s.mem.read (configCell q.addr) = none

theorem MachineInv.late {s : State} (h : MachineInv s) : LateOk s :=
  ⟨h.lateAnswers, h.lateCompletions, h.latePointer, h.lateConfig⟩

theorem lateRequests_ne_nil_of_pointerInDoubt {s : State} (h : pointerInDoubt s = true) : s.lateRequests ≠ [] := by
  intro hl
  simp [pointerInDoubt, hl] at h

/-- A command keeps the clauses: while a response is owed to an abandoned request it gets none, and so changes nothing at
the sensor. -/
theorem LateOk.of_frame {s t : State} (h : LateOk s) (frame : RunFrame s t) : LateOk t where
  answers := by
    rw [frame.lateRequests]
    refine h.answers.imp_right fun ha => ?_
    have hsuffix := frame.answers
    rwa [ha, List.suffix_nil] at hsuffix
  completions := by
    rw [frame.lateDelays]
    exact h.completions.imp_right fun hc => Nat.le_zero.1 (frame.completions.trans hc.le)
  pointer hd := by
    have hd : pointerInDoubt s = true := by
      simpa only [pointerInDoubt, frame.lateRequests, frame.addr] using hd
    have hans := h.answers.resolve_left (lateRequests_ne_nil_of_pointerInDoubt hd)
    rw [(frame.sensor hans).1, h.pointer hd]
  config q hq hk hp := by
    rw [frame.lateRequests] at hq
    have hans := h.answers.resolve_left (List.ne_nil_of_mem hq)
    rw [(frame.sensor hans).2, h.config q hq hk hp]

/-! ### The block's turn -/

/-- A step of `done` alone, and a change of the schedule or of the offers, keep the invariant. -/
theorem MachineInv.moving {s : State} (h : MachineInv s) : MachineInv (moving s) :=
  { h with pulse := fun hd => by cases hd }

theorem MachineInv.of_agenda {s : State} (h : MachineInv s) (agenda : List Move) :
    MachineInv { s with agenda := agenda } := { h with }

/-- Acceptance keeps the invariant of an IDLE block: nothing is outstanding, and the registers are cleared (R49, R50). -/
theorem MachineInv.accept {s : State} (h : MachineInv s) (hidle : s.seq = .idle) (hdone : s.done = false) (w : Word) :
    MachineInv (accept w s) :=
  { h with
    status := statusWellFormed_zero
    noValue := fun _ => ⟨rfl, rfl⟩
    idle := fun hseq => by cases hseq
    pulse := fun hd => by simp [hdone] at hd
    busy := fun _ => ⟨rfl, rfl, rfl, .inl ⟨h.idle hidle, rfl⟩⟩ }

/-- A command that has ended keeps the invariant, if STATUS and the values have their forms. -/
theorem MachineInv.of_ended {s t : State} (h : MachineInv s) (frame : RunFrame s t) (hidle : t.seq = .idle)
    (hout : t.outstanding = none) (hrx : t.rx.length ≤ 2) (hstatus : StatusWellFormed t.status)
    (hvalue : statusCode t.status ≠ OutcomeCode.ok.bits → t.result = 0x0000 ∧ t.tempf = 0x00000000) : MachineInv t where
  memory := frame.memWf h.memory
  received := hrx
  status := hstatus
  noValue := hvalue
  idle _ := hout
  pulse _ := hidle
  busy hbusy := by simp [hidle] at hbusy
  lateAnswers := (h.late.of_frame frame).answers
  lateCompletions := (h.late.of_frame frame).completions
  latePointer := (h.late.of_frame frame).pointer
  lateConfig := (h.late.of_frame frame).config

/-- The cache decides the sequence of READTEMP alone, which does not write it (R71). -/
theorem sequenceOf_after {i : Instr} {s t : State} (he : exec i s = .next t) :
    sequenceOf i t.modeCache = sequenceOf i s.modeCache := by
  cases i with
  | readtemp => rw [exec_modeCache rfl he]
  | _ => rfl

theorem requestAt_of_position {i : Instr} {t : State} {pre : List MicroOp} {a : MicroOp} {rest : List MicroOp} {q : Request}
    (hw : sequenceOf i t.modeCache = pre ++ a :: rest) (hs : t.stepIdx.toNat = requestCount pre)
    (hq : requestOf a t = some q) : requestAt i t = some q := by
  have hr : isRequest a = true := by rw [← requestOf_isSome a t, hq]; rfl
  rw [requestAt, hw, hs, afterRequests_append pre a rest hr]
  exact hq

/-- A command's turn keeps the invariant. -/
theorem MachineInv.exec {s t : State} {i : Instr} (h : MachineInv s) (hbusy : s.seq = .busy) (hd : decode s.cmd = .ok i)
    (he : exec i s = .next t) : MachineInv t := by
  have frame := exec_runFrame he
  obtain ⟨hstatus, hresult, htempf, -⟩ := h.busy hbusy
  have hend := exec_cases i s t (.inr ⟨h, hbusy, hd⟩) he
  cases hend with
  | waits _ pre a rest q hw hq ho hs hl hge quiet =>
    have hseq : t.seq = .busy := quiet.seq.trans hbusy
    have hwhole := (sequenceOf_after he).trans hw
    exact {
      memory := frame.memWf h.memory
      received := quiet.rx h.received
      status := by rw [quiet.status]; exact h.status
      noValue := by rw [quiet.status, quiet.result, quiet.tempf]; exact h.noValue
      idle := fun hidle => by simp [hseq] at hidle
      pulse := fun hdone => by
        have hidle := h.pulse (quiet.done.symm.trans hdone)
        simp [hbusy] at hidle
      busy := fun _ => ⟨quiet.status.trans hstatus, quiet.result.trans hresult, quiet.tempf.trans htempf,
        .inr ⟨i, q, by rw [frame.cmd, hd], ho, requestAt_of_position hwhole hs hq, hl⟩⟩
      lateAnswers := (h.late.of_frame frame).answers
      lateCompletions := (h.late.of_frame frame).completions
      latePointer := (h.late.of_frame frame).pointer
      lateConfig := (h.late.of_frame frame).config }
  | ends u ho hs quiet =>
    refine h.of_ended frame (by simp) (by simpa using ho) (by simpa using quiet.rx h.received) ?_ ?_ <;>
      simp only [completeOk_fields, returnValue_fields, quiet.status, hstatus]
    · exact statusWellFormed_zero
    · exact fun hne => absurd rfl hne
  | busErr u a v x k hx hs hk quiet =>
    refine h.of_ended frame (by simp) (by simp) (by simpa using quiet.rx h.received) ?_ ?_ <;>
      simp only [keepBits_fields, raiseOutcome_fields, quiet.result, quiet.tempf]
    · exact statusWellFormed_statusWord (by simpa using hx) (by simp)
    · exact fun _ => ⟨hresult, htempf⟩
  | noData u a v k hs hk quiet =>
    refine h.of_ended frame (by simp) (by simp) (by simpa using quiet.rx h.received) ?_ ?_ <;>
      simp only [keepBits_fields, raiseOutcome_fields, quiet.result, quiet.tempf]
    · exact statusWellFormed_statusWord (by simp) (by simp)
    · exact fun _ => ⟨hresult, htempf⟩

/-- The turn of a BUSY block keeps the invariant. -/
theorem MachineInv.runLatched {s t : State} (h : MachineInv s) (hbusy : s.seq = .busy) (hrun : runLatched s = .next t) :
    MachineInv t := by
  rcases runLatched_cases hrun with ⟨i, hd, he⟩ | ⟨-, rfl⟩
  · exact h.exec hbusy hd he
  · obtain ⟨-, hresult, htempf, -⟩ := h.busy hbusy
    exact h.of_ended (raiseOutcome_frame _ _ _ _) rfl rfl h.received (statusWellFormed_statusWord (by simp) (by simp))
      fun _ => ⟨hresult, htempf⟩

/-! ### The moves of the other agents -/

theorem pointerInDoubt_iff (s : State) :
    pointerInDoubt s = true ↔ ∃ q ∈ s.lateRequests, q.kind ≠ .begin ∧ q.addr = s.addr := by
  simp [pointerInDoubt]

theorem MachineInv.takeAnswer {s : State} (h : MachineInv s) (rsp : Response) : MachineInv (takeAnswer rsp s) := by
  cases hl : s.lateRequests with
  | nil =>
    rw [takeAnswer_of_none_late rsp s hl]
    exact { h with lateAnswers := .inl hl }
  | cons q late =>
    rw [takeAnswer_of_late rsp s q late hl]
    have hsub : ∀ p ∈ late, p ∈ s.lateRequests := fun p hp => hl ▸ List.mem_cons_of_mem q hp
    exact { h with
      lateAnswers := .inr (h.lateAnswers.resolve_left (by simp [hl]))
      latePointer := fun hd => by
        obtain ⟨p, hp, hkind, haddr⟩ := (pointerInDoubt_iff _).1 hd
        exact h.latePointer ((pointerInDoubt_iff s).2 ⟨p, hsub p hp, hkind, haddr⟩)
      lateConfig := fun p hp => h.lateConfig p (hsub p hp) }

theorem MachineInv.takeCompletion {s : State} (h : MachineInv s) : MachineInv (takeCompletion s) := by
  unfold Machine.takeCompletion
  split
  · exact { h with lateCompletions := .inl ‹_› }
  · exact { h with lateCompletions := .inr (h.lateCompletions.resolve_left (by simp [*])) }

theorem MachineInv.sensorConfig {s : State} (h : MachineInv s) (cfg : Byte) : MachineInv (sensorConfig cfg s) :=
  have hwf := memory_wf_write s.mem (configCell s.addr) cfg h.memory
  { h with
    memory := forgetLate_wf _ _ hwf
    lateConfig := fun q hq hk hp => forgetLate_read_config _ _ hwf q hq hk hp }

theorem MachineInv.convert {s : State} (h : MachineInv s) (w : Word) : MachineInv (convert w s) :=
  { h with
    memory := memory_wf_write _ _ _ (memory_wf_write _ _ _ h.memory)
    lateConfig := fun q hq hk hp => by
      have hother : (Machine.convert w s).mem.read (configCell q.addr) = s.mem.read (configCell q.addr) :=
        (memory_read_write_other _ _ _ _ (configCell_ne_tempCell _ _ 1 (by decide))).trans
          (memory_read_write_other _ _ _ _ (configCell_ne_tempCell _ _ 0 (by decide)))
      exact hother.trans (h.lateConfig q hq hk hp) }

theorem MachineInv.transactOther {s : State} (h : MachineInv s) (q : TransportRequest) (rsp : Response) :
    MachineInv (transactOther q rsp s) :=
  have hwf := memoryAfterOther_wf q rsp s.mem h.memory
  { h with
    memory := forgetLate_wf _ _ hwf
    latePointer := fun hd => if_pos hd
    lateConfig := fun q hq hk hp => forgetLate_read_config _ _ hwf q hq hk hp }

/-! ### The reset (R99, R100) -/

/-- What the sensors hold when the block comes to address the one at `a`: what is known, free values in the places of that
sensor's bytes of which nothing is, and nothing of a Configuration that an abandoned write may still change. -/
def boundMemory (a : BitVec 7) (s : State) : Memory := forgetLate s.lateRequests (sensorHolds a s.freeCount s.mem)

theorem boundMemory_wf {s : State} (h : s.mem.wf = true) (a : BitVec 7) : (boundMemory a s).wf = true :=
  forgetLate_wf _ _ (sensorHolds_wf a s.freeCount s.mem h)

/-- Everything a reset can do to what it abandons (R100): nothing is outstanding; a delay is; a transport request is. A
response that is there is discarded at once, one that is not is owed. -/
theorem applyReset_cases (a : BitVec 7) (s : State) :
    (s.outstanding = none ∧ (applyReset a s).lateRequests = s.lateRequests ∧
      (applyReset a s).lateDelays = s.lateDelays ∧ (applyReset a s).answers = s.answers ∧
      (applyReset a s).completions = s.completions ∧ (applyReset a s).mem = boundMemory a s) ∨
    (∃ ms, s.outstanding = some (.delay ms) ∧ (applyReset a s).lateRequests = s.lateRequests ∧
      (applyReset a s).answers = s.answers ∧ (applyReset a s).mem = boundMemory a s ∧
      (s.completions = 0 ∧ (applyReset a s).lateDelays = s.lateDelays + 1 ∧ (applyReset a s).completions = 0 ∨
       s.completions ≠ 0 ∧ (applyReset a s).lateDelays = s.lateDelays ∧
        (applyReset a s).completions = s.completions - 1)) ∨
    (∃ q, s.outstanding = some (.transport q) ∧ (applyReset a s).lateDelays = s.lateDelays ∧
      (applyReset a s).completions = s.completions ∧ (applyReset a s).mem = forgetWritten q (boundMemory a s) ∧
      (s.answers = [] ∧ (applyReset a s).lateRequests = s.lateRequests ++ [q] ∧ (applyReset a s).answers = [] ∨
       s.answers ≠ [] ∧ (applyReset a s).lateRequests = s.lateRequests ∧
        (applyReset a s).answers = s.answers.tail)) := by
  cases ho : s.outstanding with
  | none => exact .inl (by simp [applyReset, abandon, ho, boundMemory])
  | some q =>
    cases q with
    | delay ms =>
      refine .inr (.inl ⟨ms, rfl, ?_⟩)
      cases hc : s.completions <;> simp [applyReset, abandon, ho, hc, boundMemory]
    | transport q =>
      refine .inr (.inr ⟨q, rfl, ?_⟩)
      cases ha : s.answers <;> simp [applyReset, abandon, ho, ha, boundMemory]

theorem applyReset_mem_wf {s : State} (h : s.mem.wf = true) (a : BitVec 7) : (applyReset a s).mem.wf = true := by
  have hwf := boundMemory_wf h a
  rcases applyReset_cases a s with ⟨-, -, -, -, -, hmem⟩ | ⟨ms, -, -, -, hmem, -⟩ | ⟨q, -, -, -, hmem, -⟩ <;> rw [hmem]
  · exact hwf
  · exact hwf
  · exact forgetWritten_wf q _ hwf

/-- After a reset nothing is known of a Configuration that an abandoned write, of this reset or of an earlier one, may
still change or has changed (R100). -/
theorem applyReset_read_config_of_abandoned {s : State} (h : s.mem.wf = true) (a : BitVec 7) {q : TransportRequest}
    (hq : q ∈ s.lateRequests ∨ s.outstanding = some (.transport q)) (hk : q.kind = .write1)
    (hp : q.ptr = Config.ptrConfig) : (applyReset a s).mem.read (configCell q.addr) = none := by
  have hwf := boundMemory_wf h a
  have hlate : q ∈ s.lateRequests → (boundMemory a s).read (configCell q.addr) = none := fun hq =>
    forgetLate_read_config _ _ (sensorHolds_wf a s.freeCount s.mem h) q hq hk hp
  rcases applyReset_cases a s with ⟨ho, -, -, -, -, hmem⟩ | ⟨ms, ho, -, -, hmem, -⟩ | ⟨p, ho, -, -, hmem, -⟩
  · rw [hmem]
    exact hlate (hq.resolve_right (by simp [ho]))
  · rw [hmem]
    exact hlate (hq.resolve_right (by simp [ho]))
  · rw [hmem]
    rcases hq with hq | hq
    · exact forgetLate_read_none [p] _ _ hwf (hlate hq)
    · obtain rfl : p = q := by simpa [ho] using hq
      exact forgetLate_read_config [p] _ hwf p (List.mem_singleton_self p) hk hp

/-- A request that is owed after a reset was owed before, or was outstanding. -/
theorem mem_lateRequests_applyReset {a : BitVec 7} {s : State} {q : TransportRequest}
    (hq : q ∈ (applyReset a s).lateRequests) : q ∈ s.lateRequests ∨ s.outstanding = some (.transport q) := by
  rcases applyReset_cases a s with ⟨-, hl, -⟩ | ⟨ms, -, hl, -⟩ | ⟨p, ho, -, -, -, ⟨-, hl, -⟩ | ⟨-, hl, -⟩⟩ <;> rw [hl] at hq
  · exact .inl hq
  · exact .inl hq
  · rcases List.mem_append.1 hq with hq | hq
    · exact .inl hq
    · exact .inr (by rw [ho, List.mem_singleton.1 hq])
  · exact .inl hq

theorem MachineInv.applyReset {s : State} (h : MachineInv s) (a : BitVec 7) : MachineInv (applyReset a s) where
  memory := applyReset_mem_wf h.memory a
  received := by simpa using h.received
  status := by simpa using statusWellFormed_zero
  noValue _ := by simp
  idle _ := by simp
  pulse _ := by simp
  busy hb := by simp at hb
  lateAnswers := by
    rcases applyReset_cases a s with ⟨-, hl, -, ha, -⟩ | ⟨ms, -, hl, ha, -⟩ | ⟨p, -, -, -, -, ⟨-, -, ha⟩ | ⟨hne, hl, -⟩⟩
    · rw [hl, ha]; exact h.lateAnswers
    · rw [hl, ha]; exact h.lateAnswers
    · exact .inr ha
    · exact .inl (hl.trans (h.lateAnswers.resolve_right hne))
  lateCompletions := by
    rcases applyReset_cases a s with ⟨-, -, hl, -, hc, -⟩ | ⟨ms, -, -, -, -, ⟨-, -, hc⟩ | ⟨hne, hl, -⟩⟩ |
      ⟨p, -, hl, hc, -⟩
    · rw [hl, hc]; exact h.lateCompletions
    · exact .inr hc
    · exact .inl (hl.trans (h.lateCompletions.resolve_right hne))
    · rw [hl, hc]; exact h.lateCompletions
  latePointer _ := by simp
  lateConfig q hq hk hp := applyReset_read_config_of_abandoned h.memory a (mem_lateRequests_applyReset hq) hk hp

/-- Every move of another agent keeps the invariant. -/
theorem MachineInv.agentMove {s t : State} {mv : Move} (h : MachineInv s) (hblock : mv ≠ .block)
    (hmove : agentMove mv s = .next t) : MachineInv t := by
  cases mv with
  | block => exact absurd rfl hblock
  | offer w => obtain rfl := Host.Outcome.next.inj hmove; exact { h with }
  | reset a => obtain rfl := Host.Outcome.next.inj hmove; exact h.applyReset a
  | answer rsp => obtain rfl := Host.Outcome.next.inj hmove; exact h.takeAnswer rsp
  | delayDone => obtain rfl := Host.Outcome.next.inj hmove; exact h.takeCompletion
  | sensor cfg => obtain rfl := Host.Outcome.next.inj hmove; exact h.sensorConfig cfg
  | convert w => obtain rfl := Host.Outcome.next.inj hmove; exact h.convert w
  | other q rsp => obtain rfl := Host.Outcome.next.inj hmove; exact h.transactOther q rsp

theorem MachineInv.step {s t : State} (h : MachineInv s) (hstep : step s = .next t) : MachineInv t := by
  rcases step_cases hstep with ⟨a, later, -, rfl⟩ | ⟨hbusy, -, hrun⟩ | ⟨hidle, -, hturn⟩ | ⟨hblock, hmove, -⟩
  · exact h.moving.applyReset a
  · exact h.moving.runLatched hbusy hrun
  · rcases blockTurn_idle_cases (s := Machine.moving s) hidle hturn with rfl | ⟨w, rest, -, rfl⟩
    · exact h.moving
    · exact MachineInv.accept (s := { Machine.moving s with offers := rest }) { h.moving with } hidle rfl w
  · exact h.moving.agentMove hblock hmove

/-- Settles O60: by the agent that moves in the step. -/
theorem stepKeepsTheInvariant : Obligations.StepKeepsTheInvariant := fun _ _ => MachineInv.step

/-- Settles O59. -/
theorem resetSatisfiesTheInvariant : Obligations.ResetSatisfiesTheInvariant := by
  obtain ⟨htemp0, htemp1, hconfig⟩ := reset_mem_read
  refine ⟨?_, rfl, rfl, rfl, rfl, rfl, rfl, rfl, rfl, rfl, ?_, ?_, ?_⟩
  · exact ⟨reset_mem_wf, Nat.zero_le _, statusWellFormed_zero, fun _ => ⟨rfl, rfl⟩, fun _ => rfl, fun _ => rfl,
      fun hbusy => (nomatch hbusy), .inl rfl, .inl rfl, fun _ => rfl, fun q hq => (nomatch hq)⟩
  · exact Option.isSome_iff_exists.2 ⟨_, hconfig⟩
  · exact Option.isSome_iff_exists.2 ⟨_, htemp0⟩
  · exact Option.isSome_iff_exists.2 ⟨_, htemp1⟩

end Sys2Proof.Machine
end

section
/-! Resets (R99 to R101): what becomes of the request that a reset abandons, and of what is known of the sensors. -/

namespace Sys2Proof.Machine

theorem configCell_injective {a b : BitVec 7} (h : configCell a = configCell b) : a = b := by
  apply BitVec.eq_of_toNat_eq
  simp only [configCell, registerCell] at h
  omega

/-- What is known of a sensor outlives the binding: an abandoned write that may change it would have made it unknown. -/
theorem boundMemory_read_listed {s : State} (h : LateOk s) (a : BitVec 7) {c : Nat} {d : Byte}
    (hc : s.mem.read c = some d) : (boundMemory a s).read c = some d := by
  rw [boundMemory, forgetLate_read_other, sensorHolds_read_listed a _ _ _ _ hc]
  rintro q hq hk hp rfl
  rw [h.config q hq hk hp] at hc
  cases hc

theorem boundMemory_read_unlisted {s : State} (h : s.mem.wf = true) {a : BitVec 7} {c : Nat} (hconfig : c ≠ configCell a)
    (htemp0 : c ≠ tempCell a 0) (htemp1 : c ≠ tempCell a 1) (hc : s.mem.read c = none) : (boundMemory a s).read c = none :=
  forgetLate_read_none _ _ _ (sensorHolds_wf a _ _ h) (by rw [sensorHolds_read_other a _ _ _ hconfig htemp0 htemp1, hc])

theorem boundMemory_read_temp (s : State) (a : BitVec 7) :
    ((boundMemory a s).read (tempCell a 0)).isSome ∧ ((boundMemory a s).read (tempCell a 1)).isSome := by
  obtain ⟨h0, h1, -⟩ := sensorHolds_read a s.freeCount s.mem
  constructor
  · rw [boundMemory, forgetLate_read_other _ _ _ fun q _ _ _ => (configCell_ne_tempCell _ _ 0 (by decide)).symm, h0]; rfl
  · rw [boundMemory, forgetLate_read_other _ _ _ fun q _ _ _ => (configCell_ne_tempCell _ _ 1 (by decide)).symm, h1]; rfl

theorem boundMemory_read_config (s : State) (a : BitVec 7)
    (h : ∀ p ∈ s.lateRequests, p.kind = .write1 → p.ptr = Config.ptrConfig → p.addr ≠ a) :
    ((boundMemory a s).read (configCell a)).isSome := by
  obtain ⟨-, -, hc⟩ := sensorHolds_read a s.freeCount s.mem
  rw [boundMemory, forgetLate_read_other _ _ _ fun q hq hk hp he => h q hq hk hp (configCell_injective he).symm, hc]
  rfl

/-- The memory after a reset is that of the binding, but for what an abandoned write made unknown. -/
theorem applyReset_read (a : BitVec 7) (s : State) (c : Nat)
    (h : ∀ p, s.outstanding = some (.transport p) → p.kind = .write1 → p.ptr = Config.ptrConfig → c ≠ configCell p.addr) :
    (applyReset a s).mem.read c = (boundMemory a s).read c := by
  rcases applyReset_cases a s with ⟨-, -, -, -, -, hmem⟩ | ⟨ms, -, -, -, hmem, -⟩ | ⟨q, ho, -, -, hmem, -⟩ <;> rw [hmem]
  exact forgetWritten_read_other q _ c (h q ho)

/-- A byte of which nothing is known once the block addresses the sensor is not known after the reset. -/
theorem applyReset_read_none {a : BitVec 7} {s : State} {c : Nat} (hwf : s.mem.wf = true)
    (h : (boundMemory a s).read c = none) : (applyReset a s).mem.read c = none := by
  rcases applyReset_cases a s with ⟨-, -, -, -, -, hmem⟩ | ⟨ms, -, -, -, hmem, -⟩ | ⟨q, -, -, -, hmem, -⟩ <;> rw [hmem]
  · exact h
  · exact h
  · exact forgetLate_read_none [q] _ _ (boundMemory_wf hwf a) h

/-- The first clause of O58: nothing is reported, and with no request outstanding none becomes late (R100). -/
theorem reset_reports_nothing (a : BitVec 7) (s : State) :
    (applyReset a s).outstanding = none ∧ (applyReset a s).done = false ∧ (applyReset a s).status = 0x0000 ∧
      (applyReset a s).devPtr = .unknown ∧
      (s.outstanding = none → (applyReset a s).lateRequests = s.lateRequests ∧
        (applyReset a s).lateDelays = s.lateDelays ∧ (applyReset a s).answers = s.answers ∧
        (applyReset a s).completions = s.completions) := by
  refine ⟨by simp, by simp, by simp, by simp, fun hnone => ?_⟩
  rcases applyReset_cases a s with ⟨-, hl, hd, ha, hc, -⟩ | ⟨ms, ho, -⟩ | ⟨q, ho, -⟩
  · exact ⟨hl, hd, ha, hc⟩
  · simp [hnone] at ho
  · simp [hnone] at ho

/-- The outstanding transport request becomes late, or its response is dropped (R100). -/
theorem reset_abandons_transport {a : BitVec 7} {s : State} {p : TransportRequest}
    (h : s.outstanding = some (.transport p)) :
    (s.answers = [] → (applyReset a s).lateRequests = s.lateRequests ++ [p] ∧ (applyReset a s).answers = []) ∧
    (s.answers ≠ [] → (applyReset a s).lateRequests = s.lateRequests ∧ (applyReset a s).answers = s.answers.tail) := by
  rcases applyReset_cases a s with ⟨ho, -⟩ | ⟨ms, ho, -⟩ | ⟨q, ho, -, -, -, ⟨hans, hl, ha⟩ | ⟨hans, hl, ha⟩⟩
  · simp [h] at ho
  · simp [h] at ho
  · obtain rfl : p = q := by simpa [h] using ho
    exact ⟨fun _ => ⟨hl, ha⟩, fun hne => absurd hans hne⟩
  · exact ⟨fun hnil => absurd hnil hans, fun _ => ⟨hl, ha⟩⟩

/-- The outstanding delay becomes late, or its completion is dropped (R100). -/
theorem reset_abandons_delay {a : BitVec 7} {s : State} {ms : BitVec 16} (h : s.outstanding = some (.delay ms)) :
    (s.completions = 0 → (applyReset a s).lateDelays = s.lateDelays + 1 ∧ (applyReset a s).completions = 0) ∧
    (s.completions ≠ 0 →
      (applyReset a s).lateDelays = s.lateDelays ∧ (applyReset a s).completions = s.completions - 1) := by
  rcases applyReset_cases a s with ⟨ho, -⟩ | ⟨ms, -, -, -, -, ⟨hcomp, hl, hc⟩ | ⟨hcomp, hl, hc⟩⟩ | ⟨q, ho, -⟩
  · simp [h] at ho
  · exact ⟨fun _ => ⟨hl, hc⟩, fun hne => absurd hcomp hne⟩
  · exact ⟨fun hzero => absurd hzero hcomp, fun _ => ⟨hl, hc⟩⟩
  · simp [h] at ho

/-- While a request is owed its response, another master's transaction or the sensor itself leaves unknown what the request
may still change (R100). -/
theorem transactOther_in_doubt {s : State} {p : TransportRequest} (hp : p ∈ s.lateRequests) (q : TransportRequest)
    (rsp : Response) :
    (p.kind ≠ .begin → p.addr = s.addr → (transactOther q rsp s).devPtr = .unknown) ∧
    (s.mem.wf = true → p.kind = .write1 → p.ptr = Config.ptrConfig →
      (transactOther q rsp s).mem.read (configCell p.addr) = none) :=
  ⟨fun hkind haddr => if_pos ((pointerInDoubt_iff s).2 ⟨p, hp, hkind, haddr⟩),
    fun hwf hk hptr => forgetLate_read_config _ _ (memoryAfterOther_wf q rsp _ hwf) p hp hk hptr⟩

theorem sensorConfig_in_doubt {s : State} {p : TransportRequest} (hp : p ∈ s.lateRequests) (hwf : s.mem.wf = true)
    (hk : p.kind = .write1) (hptr : p.ptr = Config.ptrConfig) (cfg : Byte) :
    (sensorConfig cfg s).mem.read (configCell p.addr) = none :=
  forgetLate_read_config _ _ (memory_wf_write _ _ cfg hwf) p hp hk hptr

/-- The state after a step in which the schedule lists a reset. -/
theorem eq_applyReset_of_step {s t : State} {a : BitVec 7} {later : List Move} (ha : s.agenda = .reset a :: later)
    (h : step s = .next t) : t = applyReset a (moving s) := by
  rw [step_of_agenda_reset ha, ← moving_of_agenda_cons ha] at h
  exact (Host.Outcome.next.inj h).symm

/-- Settles O58, clause by clause, on the state in which the reset moves. -/
theorem lateResponseIsDiscarded : Obligations.LateResponseIsDiscarded := by
  refine ⟨fun s a later ha => ?_, fun s t a later q ha ho h => ?_, fun s t a later hinv ha h => ?_,
    fun s p late rsp later ha hl => ?_, fun s n later ha hl => ?_, fun s t p mv later hwf hp ha h => ?_⟩
  · refine ⟨applyReset a (moving s), ?_, reset_reports_nothing a (moving s)⟩
    rw [step_of_agenda_reset ha, ← moving_of_agenda_cons ha]
  · obtain rfl := eq_applyReset_of_step ha h
    cases q with
    | transport p =>
      obtain ⟨hwaits, hanswered⟩ := reset_abandons_transport (a := a) (s := moving s) ho
      exact ⟨hwaits, hanswered, fun hwf hk hp =>
        applyReset_read_config_of_abandoned (s := moving s) hwf a (.inr ho) hk hp⟩
    | delay ms => exact reset_abandons_delay (a := a) (s := moving s) ho
  · obtain rfl := eq_applyReset_of_step ha h
    have hinv := hinv.moving
    obtain ⟨htemp0, htemp1⟩ := boundMemory_read_temp (moving s) a
    refine ⟨fun c d hc hother => ?_, fun c hconfig h0 h1 hc => ?_, ?_, ?_, fun hother => ?_⟩
    · exact (applyReset_read a (moving s) c hother).trans (boundMemory_read_listed hinv.late a hc)
    · exact applyReset_read_none hinv.memory (boundMemory_read_unlisted hinv.memory hconfig h0 h1 hc)
    · rwa [applyReset_read a _ _ fun p _ _ _ => (configCell_ne_tempCell _ _ 0 (by decide)).symm]
    · rwa [applyReset_read a _ _ fun p _ _ _ => (configCell_ne_tempCell _ _ 1 (by decide)).symm]
    · rw [applyReset_read a (moving s) _ fun p hp hk hptr he => hother p (.inr hp) hk hptr (configCell_injective he).symm]
      exact boundMemory_read_config (moving s) a fun p hp => hother p (.inl hp)
  · rw [step_of_agenda_cons ha, agentMove, takeAnswer_of_late _ { s with done := false, agenda := later } p late hl]
  · rw [step_of_agenda_cons ha, agentMove, takeCompletion]
    simp [hl]
  · rw [step_of_agenda_cons ha, ← moving_of_agenda_cons ha] at h
    refine ⟨?_, ?_⟩
    · rintro hkind haddr ⟨q, rsp, rfl⟩
      obtain rfl := Host.Outcome.next.inj h
      exact (transactOther_in_doubt (s := moving s) hp q rsp).1 hkind haddr
    · rintro hk hptr (⟨q, rsp, rfl⟩ | ⟨cfg, rfl⟩)
      · obtain rfl := Host.Outcome.next.inj h
        exact (transactOther_in_doubt (s := moving s) hp q rsp).2 hwf hk hptr
      · obtain rfl := Host.Outcome.next.inj h
        exact sensorConfig_in_doubt (s := moving s) hp hwf hk hptr cfg

end Sys2Proof.Machine
end

section
/-! Requests and their responses (R16, R26, R37, R52, R84 to R89): what a response makes of a request, and what a transaction
leaves in the sensor's pointer and registers. -/

namespace Sys2Proof.Machine

/-- Settles O16. -/
theorem requestRecords : Obligations.RequestRecords :=
  ⟨rfl, fun _ _ => ⟨rfl, fun _ => rfl, fun _ => rfl⟩, rfl, rfl, rfl, rfl, rfl, rfl, rfl, rfl, rfl⟩

/-! ### Replies (R52) -/

theorem reply_begin {q : TransportRequest} (rsp : Response) (hk : q.kind = .begin) : reply q rsp = .returned [] := by
  simp [reply, hk]

theorem reply_bad {q : TransportRequest} {rsp : Response} (hk : q.kind ≠ .begin) (h : rsp.xstatus ≠ 0) :
    reply q rsp = .busError rsp.xstatus := by
  unfold reply
  split
  · exact absurd ‹_› hk
  all_goals exact if_neg h

theorem reply_good_of_no_bytes {q : TransportRequest} {rsp : Response} (hk : q.kind = .setPtr ∨ q.kind = .write1)
    (h : rsp.xstatus = 0) : reply q rsp = .returned [] := by
  rcases hk with hk | hk <;> simp [reply, hk, h]

theorem reply_short {q : TransportRequest} {rsp : Response} (hk : q.kind = .readN) (h : rsp.xstatus = 0)
    (hlen : rsp.bytes.length < q.count.toNat) : reply q rsp = .noData := by
  simp [reply, hk, h, hlen]

theorem reply_bytes {q : TransportRequest} {rsp : Response} (hk : q.kind = .readN) (h : rsp.xstatus = 0)
    (hlen : q.count.toNat ≤ rsp.bytes.length) : reply q rsp = .returned (rsp.bytes.take q.count.toNat) := by
  simp [reply, hk, h, Nat.not_lt.2 hlen]

/-- Settles O17. -/
theorem repliesOfTheTransport : Obligations.RepliesOfTheTransport := fun _ rsp =>
  ⟨reply_begin rsp, reply_bad, reply_good_of_no_bytes, reply_short, reply_bytes⟩

/-- A reply that returns is the reply to a request with status 0 and enough bytes, or to a `BEGIN`. -/
theorem reply_returned_of_good {q : TransportRequest} {rsp : Response} (h : rsp.xstatus = 0)
    (hlen : q.kind = .readN → q.count.toNat ≤ rsp.bytes.length) : ∃ bytes, reply q rsp = .returned bytes := by
  cases hk : q.kind with
  | begin => exact ⟨_, reply_begin rsp hk⟩
  | setPtr => exact ⟨_, reply_good_of_no_bytes (.inl hk) h⟩
  | write1 => exact ⟨_, reply_good_of_no_bytes (.inr hk) h⟩
  | readN => exact ⟨_, reply_bytes hk h (hlen hk)⟩

/-! ### The pointer (R16) -/

@[simp] theorem pointerOf_code (r : Reg) : pointerOf r.code = .known r := by cases r <;> rfl

theorem pointerOf_of_no_code {ptr : Byte} (h : ∀ r : Reg, ptr ≠ r.code) : pointerOf ptr = .unknown := by
  simp only [pointerOf, show ptr ≠ Config.ptrTemp from h .temp, show ptr ≠ Config.ptrConfig from h .config,
    show ptr ≠ Config.ptrTLow from h .tlow, show ptr ≠ Config.ptrTHigh from h .thigh, if_false]

theorem pointerAfter_begin {q : TransportRequest} (rsp : Response) (s : State) (hk : q.kind = .begin) :
    pointerAfter q rsp s = s.devPtr := by
  simp [pointerAfter, hk]

theorem pointerAfter_elsewhere {q : TransportRequest} (rsp : Response) {s : State} (ha : q.addr ≠ s.addr) :
    pointerAfter q rsp s = s.devPtr := by
  unfold pointerAfter
  split
  · rfl
  · exact if_neg ha

theorem pointerAfter_returned {q : TransportRequest} {rsp : Response} {s : State} {bytes : List Byte}
    (hk : q.kind ≠ .begin) (ha : q.addr = s.addr) (hr : reply q rsp = .returned bytes) :
    pointerAfter q rsp s = pointerOf q.ptr := by
  unfold pointerAfter
  split
  · exact absurd ‹_› hk
  · simp [ha, hr]

/-- A request that fails, or a read that is short, leaves the pointer unknown. -/
theorem pointerAfter_failed {q : TransportRequest} {rsp : Response} {s : State} (ha : q.addr = s.addr)
    (hr : ∀ bytes, reply q rsp ≠ .returned bytes) : pointerAfter q rsp s = .unknown := by
  unfold pointerAfter
  split
  · exact absurd (reply_begin rsp ‹_›) (hr [])
  · rw [if_pos ha]
    split
    · exact absurd ‹_› (hr _)
    · rfl

theorem pointerAfter_bad {q : TransportRequest} {rsp : Response} {s : State} (hk : q.kind ≠ .begin) (ha : q.addr = s.addr)
    (h : rsp.xstatus ≠ 0) : pointerAfter q rsp s = .unknown :=
  pointerAfter_failed ha fun bytes => by simp [reply_bad hk h]

theorem pointerAfter_short {q : TransportRequest} {rsp : Response} {s : State} (hk : q.kind = .readN)
    (ha : q.addr = s.addr) (hlen : rsp.bytes.length < q.count.toNat) : pointerAfter q rsp s = .unknown :=
  pointerAfter_failed ha fun bytes => by
    by_cases h : rsp.xstatus = 0
    · simp [reply_short hk h hlen]
    · simp [reply_bad (show q.kind ≠ .begin by simp [hk]) h]

theorem pointerAfter_good {q : TransportRequest} {rsp : Response} {s : State} (hk : q.kind ≠ .begin) (ha : q.addr = s.addr)
    (h : rsp.xstatus = 0) (hlen : q.kind = .readN → q.count.toNat ≤ rsp.bytes.length) :
    pointerAfter q rsp s = pointerOf q.ptr := by
  obtain ⟨bytes, hr⟩ := reply_returned_of_good h hlen
  exact pointerAfter_returned hk ha hr

/-- With none abandoned, another master's transaction has the effect of one of the block (R16, R26). -/
theorem transactOther_of_none_late {q : TransportRequest} {rsp : Response} {s : State} (hl : s.lateRequests = []) :
    transactOther q rsp s = { s with devPtr := pointerAfter q rsp s, mem := memoryAfterOther q rsp s.mem } := by
  have hdoubt : pointerInDoubt s = false := by simp [pointerInDoubt, hl]
  rw [transactOther, hdoubt, hl]
  rfl

theorem step_transactOther {q : TransportRequest} {rsp : Response} {s : State} {later : List Move}
    (ha : s.agenda = .other q rsp :: later) (hl : s.lateRequests = []) :
    step s = .next { s with done := false, agenda := later, devPtr := pointerAfter q rsp s,
                            mem := memoryAfterOther q rsp s.mem } := by
  rw [step_of_agenda_cons ha, agentMove,
    transactOther_of_none_late (s := { s with done := false, agenda := later }) hl]
  rfl

/-- Settles O20. -/
theorem transactionMovesThePointer : Obligations.TransactionMovesThePointer := by
  refine ⟨fun q rsp s hk => pointerAfter_begin rsp s hk, fun r q rsp s hptr haddr => ⟨?_, ?_, ?_⟩,
    fun q rsp s later ha hl => ⟨_, step_transactOther ha hl, rfl, ?_, fun hk haddr => ⟨?_, ?_, ?_, ?_⟩⟩⟩
  · exact fun hk h hlen => (pointerAfter_good hk haddr h hlen).trans (by rw [hptr, pointerOf_code])
  · exact fun hk h => pointerAfter_bad hk haddr h
  · exact fun hk _ hlen => pointerAfter_short hk haddr hlen
  · rintro (hk | haddr)
    · exact pointerAfter_begin rsp s hk
    · exact pointerAfter_elsewhere rsp haddr
  · exact fun r hptr h hlen => (pointerAfter_good hk haddr h hlen).trans (by rw [hptr, pointerOf_code])
  · intro hptr
    by_cases hr : ∃ bytes, reply q rsp = .returned bytes
    · obtain ⟨bytes, hr⟩ := hr
      exact (pointerAfter_returned hk haddr hr).trans (pointerOf_of_no_code hptr)
    · exact pointerAfter_failed haddr fun bytes hb => hr ⟨bytes, hb⟩
  · exact fun h => pointerAfter_bad hk haddr h
  · exact fun hk hlen => pointerAfter_short hk haddr hlen

/-! ### The registers (R26, R32) -/

theorem memoryAfter_write_good {q : TransportRequest} {rsp : Response} (m : Memory) (hk : q.kind = .write1)
    (hp : q.ptr = Config.ptrConfig) (h : rsp.xstatus = 0) : memoryAfter q rsp m = m.write (configCell q.addr) q.data := by
  simp [memoryAfter, hk, hp, h]

theorem memoryAfter_write_bad {q : TransportRequest} {rsp : Response} (m : Memory) (hk : q.kind = .write1)
    (hp : q.ptr = Config.ptrConfig) (h : rsp.xstatus ≠ 0) : memoryAfter q rsp m = m.forget (configCell q.addr) := by
  simp only [memoryAfter, hk, hp, if_neg h, if_true]

theorem memoryAfter_of_ptr {q : TransportRequest} (rsp : Response) (m : Memory) (hp : q.ptr ≠ Config.ptrConfig) :
    memoryAfter q rsp m = m := by
  unfold memoryAfter
  split <;> simp [hp]

/-- What Configuration holds after a write to it: the byte, or nothing known. -/
theorem memoryAfter_read_config {q : TransportRequest} {rsp : Response} {m : Memory} (hwf : m.wf = true)
    (hk : q.kind = .write1) (hp : q.ptr = Config.ptrConfig) :
    (memoryAfter q rsp m).read (configCell q.addr) = if rsp.xstatus = 0 then some q.data else none := by
  split
  · rw [memoryAfter_write_good m hk hp ‹_›, memory_read_write_same]
  · rw [memoryAfter_write_bad m hk hp ‹_›, memory_read_forget_same _ _ hwf]

theorem memoryAfterOther_of_not_temp {q : TransportRequest} (rsp : Response) (m : Memory)
    (h : ¬ (q.kind = .write1 ∧ q.ptr = Config.ptrTemp)) : memoryAfterOther q rsp m = memoryAfter q rsp m := if_neg h

theorem memoryAfterOther_temp {q : TransportRequest} (rsp : Response) (m : Memory) (hk : q.kind = .write1)
    (hp : q.ptr = Config.ptrTemp) :
    memoryAfterOther q rsp m = (m.forget (tempCell q.addr 0)).forget (tempCell q.addr 1) := if_pos ⟨hk, hp⟩

theorem tempCell_zero_ne_one (a : BitVec 7) : tempCell a 0 ≠ tempCell a 1 := by simp [tempCell, registerCell]

theorem ptrConfig_ne_ptrTemp : Config.ptrConfig ≠ Config.ptrTemp := by decide

theorem memory_read_forget_temp {m : Memory} (hwf : m.wf = true) (a : BitVec 7) :
    ((m.forget (tempCell a 0)).forget (tempCell a 1)).read (tempCell a 0) = none ∧
    ((m.forget (tempCell a 0)).forget (tempCell a 1)).read (tempCell a 1) = none ∧
    ∀ c, c ≠ tempCell a 0 → c ≠ tempCell a 1 → ((m.forget (tempCell a 0)).forget (tempCell a 1)).read c = m.read c := by
  refine ⟨?_, memory_read_forget_same _ _ (memory_wf_forget _ _ hwf), fun c h0 h1 => ?_⟩
  · rw [memory_read_forget_other _ _ _ (tempCell_zero_ne_one a), memory_read_forget_same _ _ hwf]
  · rw [memory_read_forget_other _ _ _ h1, memory_read_forget_other _ _ _ h0]

theorem step_sensorConfig {cfg : Byte} {s : State} {later : List Move} (ha : s.agenda = .sensor cfg :: later)
    (hl : s.lateRequests = []) :
    step s = .next { s with done := false, agenda := later, mem := s.mem.write (configCell s.addr) cfg } := by
  rw [step_of_agenda_cons ha, agentMove, sensorConfig, hl]
  rfl

theorem step_convert {w : Word} {s : State} {later : List Move} (ha : s.agenda = .convert w :: later) :
    step s = .next { s with
      done := false, agenda := later,
      mem := (s.mem.write (tempCell s.addr 0) (w.extractLsb' 8 8)).write (tempCell s.addr 1) (w.extractLsb' 0 8) } := by
  rw [step_of_agenda_cons ha, agentMove, convert]

/-- Settles O21. -/
theorem transactionWritesConfiguration : Obligations.TransactionWritesConfiguration := by
  refine ⟨fun q rsp s hwf => ⟨fun hk hp h => ?_, fun hk hp h => ?_, fun hk => memoryAfter_of_kind q rsp _ hk,
      fun _ hp => memoryAfter_of_ptr rsp _ hp, memoryAfter_read_other q rsp _, memoryAfter_wf q rsp _ hwf⟩,
    fun q rsp s later hwf ha hl => ⟨_, step_transactOther ha hl, memoryAfterOther_wf q rsp _ hwf, fun hk hp => ?_,
      fun hk hp => ?_, fun h => ?_⟩,
    fun cfg s later ha hl => ⟨_, step_sensorConfig ha hl, rfl, memory_read_write_same _ _ _,
      fun c hc => memory_read_write_other _ _ _ _ hc⟩,
    fun w s later ha => ⟨_, step_convert ha, rfl, ?_, memory_read_write_same _ _ _, fun c h0 h1 => ?_⟩⟩
  · exact (memoryAfter_read_config hwf hk hp).trans (if_pos h)
  · exact (memoryAfter_read_config hwf hk hp).trans (if_neg h)
  · have hp : q.ptr = Config.ptrConfig := hp
    have hother := memoryAfterOther_of_not_temp rsp s.mem fun h => ptrConfig_ne_ptrTemp (hp.symm.trans h.2)
    exact ⟨by rw [hother, memoryAfter_read_config hwf hk hp],
      fun c hc => by rw [hother, memoryAfter_read_other q rsp _ c hc]⟩
  · rw [memoryAfterOther_temp rsp s.mem hk hp]
    exact memory_read_forget_temp hwf q.addr
  · have hnone : ¬ (q.kind = .write1 ∧ q.ptr = Config.ptrTemp) := by
      rintro ⟨hk, hp⟩
      exact h.elim (fun hne => hne hk) fun hne => hne.2 hp
    refine (memoryAfterOther_of_not_temp rsp s.mem hnone).trans ?_
    rcases h with hk | ⟨hp, -⟩
    · exact memoryAfter_of_kind q rsp _ hk
    · exact memoryAfter_of_ptr rsp _ hp
  · exact (memory_read_write_other _ _ _ _ (tempCell_zero_ne_one _)).trans (memory_read_write_same _ _ _)
  · exact (memory_read_write_other _ _ _ _ h1).trans (memory_read_write_other _ _ _ _ h0)

/-! ### A request with its response there (R52) -/

/-- `s` after the request `q`, which was not outstanding, has been sent and has taken the response `rsp`: the sensor has
taken the transaction, and `S.step` counts it. -/
def took (q : TransportRequest) (rsp : Response) (rest : List Response) (s : State) : State :=
  { s with outstanding := none, sent := s.sent ++ [.transport q], answers := rest, stepIdx := s.stepIdx + 1,
           devPtr := pointerAfter q rsp s, mem := memoryAfter q rsp s.mem }

theorem answered_eq_took (q : TransportRequest) {rsp : Response} {rest : List Response} {s : State}
    (hout : s.outstanding = none) (hans : s.answers = rsp :: rest) : answered (.transport q) s = took q rsp rest s := by
  simp only [answered, hans, send_of_none _ s hout]
  rfl

theorem issue_returned {q : TransportRequest} {rsp : Response} {rest : List Response} {s : State} {bytes : List Byte}
    (hout : s.outstanding = none) (hans : s.answers = rsp :: rest) (hr : reply q rsp = .returned bytes) :
    issue (.transport q) s = .returned bytes (took q rsp rest s) := by
  rw [← answered_eq_took q hout hans]
  simp [issue, hans, settleTransport, hr, answered]

theorem issue_busError {q : TransportRequest} {rsp : Response} {rest : List Response} {s : State} {xs : Byte}
    (hout : s.outstanding = none) (hans : s.answers = rsp :: rest) (hr : reply q rsp = .busError xs) :
    issue (.transport q) s = .raised (raiseOutcome .busErr xs s.stepIdx (took q rsp rest s)) := by
  rw [← answered_eq_took q hout hans]
  simp [issue, hans, settleTransport, hr, answered]

theorem issue_noData {q : TransportRequest} {rsp : Response} {rest : List Response} {s : State}
    (hout : s.outstanding = none) (hans : s.answers = rsp :: rest) (hr : reply q rsp = .noData) :
    issue (.transport q) s = .raised (raiseOutcome .noData 0 s.stepIdx (took q rsp rest s)) := by
  rw [← answered_eq_took q hout hans]
  simp [issue, hans, settleTransport, hr, answered]

/-- STATUS with its reserved bit and CODE written as one field of 4 bits. -/
theorem statusWord_eq_append (x : Byte) (k : BitVec 4) (code : OutcomeCode) :
    statusWord x k code = x ++ k ++ (code.bits.setWidth 4 : BitVec 4) := by
  have hlow : (0 : BitVec 1) ++ code.bits = code.bits.setWidth 4 := by cases code <;> rfl
  rw [← hlow, statusWord]
  exact BitVec.append_assoc

/-- Settles O19. -/
theorem failedRequestIsRecorded : Obligations.FailedRequestIsRecorded := by
  refine fun q rsp rest s hout hans haddr hk => ⟨fun h => ?_, fun hkind h hlen => ?_⟩
  · rw [issue_busError hout hans (reply_bad hk h), raiseOutcome, took, pointerAfter_bad hk haddr h, statusWord_eq_append]
    rw [← hout]; rfl
  · rw [issue_noData hout hans (reply_short hkind h hlen), raiseOutcome, took, pointerAfter_short hkind haddr hlen,
      statusWord_eq_append, memoryAfter_of_kind q rsp _ (by simp [hkind])]
    rw [← hout]; rfl

end Sys2Proof.Machine
end

section
/-! How a command's run ends (R51, R52, R58, R84, R88): which outcome, after which requests, with the pointer where. -/

namespace Sys2Proof.Machine

theorem Ready.standsIn {s : State} (h : Ready s) (i : Instr) : StandsIn i s := .inl ⟨h.2.1, h.2.2.1⟩

/-- From acceptance on, a command is the run of its whole sequence. -/
theorem exec_of_ready {s : State} (h : Ready s) (i : Instr) :
    exec i s = .next (run (finishOf i) (sequenceOf i s.modeCache) s) := by
  obtain ⟨-, hstep, hout, -⟩ := h
  rw [exec_eq_runCommand, runCommand, remaining, hout, hstep]
  exact congrArg (fun as => Host.Outcome.next (run _ as s)) (afterRequests_zero _)

theorem exec_of_ready_eq {s t : State} {i : Instr} (h : Ready s) (he : exec i s = .next t) :
    t = run (finishOf i) (sequenceOf i s.modeCache) s := by
  rw [exec_of_ready h] at he
  exact (Host.Outcome.next.inj he).symm

/-- Which outcome a reply raises, and with which XCODE (R85, R86). -/
def Raises (r : Reply) (code : OutcomeCode) (x : Byte) : Prop :=
  (r = .busError x ∧ code = .busErr) ∨ (r = .noData ∧ code = .noData ∧ x = 0)

theorem Raises.code_ne_ok {r : Reply} {code : OutcomeCode} {x : Byte} (h : Raises r code x) : code ≠ .ok := by
  rcases h with ⟨-, rfl⟩ | ⟨-, rfl, -⟩ <;> decide

theorem Raises.not_returned {r : Reply} {code : OutcomeCode} {x : Byte} (h : Raises r code x) (bytes : List Byte) :
    r ≠ .returned bytes := by
  rcases h with ⟨rfl, -⟩ | ⟨rfl, -⟩ <;> simp

/-- The three ends of `issue` (R52): the response is not there, and it waits; it is there, and `issue` returns; it is there,
and an outcome is raised. -/
theorem issue_ends (q : Request) (s : State) :
    (¬ Answered q s ∧ issue q s = .waiting (send q s)) ∨
    (Answered q s ∧ ∃ bytes, issue q s = .returned bytes (answered q s) ∧
      ∀ t, q = .transport t → ∃ rsp rest, s.answers = rsp :: rest ∧ reply t rsp = .returned bytes) ∨
    (∃ t rsp rest code x, q = .transport t ∧ s.answers = rsp :: rest ∧ Raises (reply t rsp) code x ∧
      issue q s = .raised (raiseOutcome code x s.stepIdx (answered q s))) := by
  rcases issue_cases q s with ⟨hi, hnot⟩ | ⟨bytes, hi, hb⟩ | ⟨t, rsp, rest, x, hq, hans, hr, hi⟩ |
    ⟨t, rsp, rest, hq, hans, hr, hi⟩
  · refine .inl ⟨?_, hi⟩
    cases q <;> simpa [Answered] using hnot
  · refine .inr (.inl ?_)
    cases q with
    | transport t =>
      obtain ⟨rsp, rest, hans, hr⟩ := hb
      refine ⟨by simp [Answered, hans], bytes, hi, fun t' ht => ?_⟩
      obtain rfl := Request.transport.inj ht
      exact ⟨rsp, rest, hans, hr⟩
    | delay ms => exact ⟨hb.2, bytes, hi, fun t ht => by cases ht⟩
  · exact .inr (.inr ⟨t, rsp, rest, .busErr, x, hq, hans, .inl ⟨hr, rfl⟩, hi⟩)
  · exact .inr (.inr ⟨t, rsp, rest, .noData, 0, hq, hans, .inr ⟨hr, rfl, rfl⟩, hi⟩)

/-- A request that has its response counts one, and none is outstanding (R52). -/
theorem answered_counts_of_answered {q : Request} {s : State} (h : Answered q s) :
    (answered q s).outstanding = none ∧ (answered q s).stepIdx = s.stepIdx + 1 :=
  answered_counts q s (by cases q with | transport t => exact h | delay ms => trivial)

/-! ### The outcome (R84) -/

/-- A sequence without a read. -/
def ReadsNothing (as : List MicroOp) : Prop := ∀ r, MicroOp.read r ∉ as ∧ MicroOp.burst r ∉ as

theorem ReadsNothing.tail {a : MicroOp} {as : List MicroOp} (h : ReadsNothing (a :: as)) : ReadsNothing as := fun r =>
  ⟨fun hm => (h r).1 (List.mem_cons_of_mem _ hm), fun hm => (h r).2 (List.mem_cons_of_mem _ hm)⟩

theorem kind_of_reply_noData {q : TransportRequest} {rsp : Response} (h : reply q rsp = .noData) : q.kind = .readN := by
  unfold reply at h
  split at h
  · cases h
  · split at h <;> cases h
  · split at h <;> cases h
  · assumption

/-- The actions whose request is a `READN`. -/
theorem read_or_burst_of_kind {a : MicroOp} {s : State} {q : TransportRequest} (hq : requestOf a s = some (.transport q))
    (hk : q.kind = .readN) : ∃ r, a = .read r ∨ a = .burst r := by
  cases a with
  | read r => exact ⟨r, .inl rfl⟩
  | burst r => exact ⟨r, .inr rfl⟩
  | cache m => cases hq
  | settle => cases hq
  | begin => cases hq; cases hk
  | select r => cases hq; cases hk
  | write r e kept => cases hq; cases hk

/-- Only a read can end with NO_DATA (R86). -/
theorem run_not_noData (f : Finish) (as : List MicroOp) (s : State) (h : ReadsNothing as) (hs : ¬ HasCode s .noData) :
    ¬ HasCode (run f as s) .noData := by
  induction as generalizing s with
  | nil => simpa [run_nil] using hs
  | cons a rest ih =>
    cases hq : requestOf a s with
    | none => rw [run_internal f a rest s hq]; exact ih _ h.tail (by simpa using hs)
    | some q =>
      rw [run_request f a rest s q hq]
      rcases issue_ends q s with ⟨-, hi⟩ | ⟨-, bytes, hi, -⟩ | ⟨t, rsp, r, code, x, rfl, -, hr, hi⟩ <;> simp only [hi]
      · simpa using hs
      · exact ih _ h.tail (by simpa [(answered_quiet q s).status] using hs)
      · rcases hr with ⟨-, rfl⟩ | ⟨hr, -⟩
        · simp [HasCode]; decide
        · obtain ⟨reg, rfl | rfl⟩ := read_or_burst_of_kind hq (kind_of_reply_noData hr)
          · exact absurd (List.mem_cons_self ..) (h reg).1
          · exact absurd (List.mem_cons_self ..) (h reg).2

/-- Settles O22. -/
theorem outcomesOfACommand : Obligations.OutcomesOfACommand := by
  intro i s t hready he hidle
  have hbusy := hready.1
  have hstatus := hready.2.2.2.1
  refine ⟨?_, fun hi => ?_, ?_⟩
  · have hend := exec_cases i s t (hready.standsIn i) he
    cases hend with
    | waits _ pre a rest q hw hq ho hs hl hge quiet => simp [quiet.seq, hbusy] at hidle
    | ends u ho hs quiet => exact .inl (by simp [quiet.status, hstatus])
    | busErr u a v x k hx hs hk quiet => exact .inr (.inl (by simpa [HasCode] using hx))
    | noData u a v k hs hk quiet => exact .inr (.inr (by simp [HasCode]))
  · rw [exec_of_ready_eq hready he]
    refine run_not_noData _ _ s ?_ (by rw [HasCode, hstatus]; decide)
    rcases hi with rfl | ⟨d, rfl⟩
    · simp [ReadsNothing, sequenceOf, initSequence]
    · simp [ReadsNothing, sequenceOf, setcfgSequence, restorePtr]
  · rintro rfl
    rw [exec_of_ready_eq hready he]
    exact hstatus

/-- Settles O23: a failure writes neither RESULT nor TEMPF, which acceptance has cleared. -/
theorem failedCommandReturnsNoValue : Obligations.FailedCommandReturnsNoValue := by
  intro i s t hready he hidle hfail
  have hend := exec_cases i s t (hready.standsIn i) he
  obtain ⟨hbusy, -, -, hstatus, hresult, htempf⟩ := hready
  cases hend with
  | waits _ pre a rest q hw hq ho hs hl hge quiet => simp [quiet.seq, hbusy] at hidle
  | ends u ho hs quiet => simp [quiet.status, hstatus] at hfail
  | busErr u a v x k hx hs hk quiet => simp [quiet.result, quiet.tempf, hresult, htempf]
  | noData u a v k hs hk quiet => simp [quiet.result, quiet.tempf, hresult, htempf]

/-! ### The request that failed (R88) -/

/-- `answered` with the request not outstanding before: it has been sent, and what is taken is its response. -/
theorem answered_sent {q : Request} {s : State} (hout : s.outstanding = none) (h : Answered q s) :
    (answered q s).sent = s.sent ++ [q] := by
  cases q with
  | delay ms => simp [answered, send_of_none _ s hout]
  | transport t =>
    obtain ⟨rsp, rest, hans⟩ := List.exists_cons_of_ne_nil h
    rw [answered_eq_took t hout hans]
    rfl

/-- `t` records a failure that came after `s`: the request that failed was sent last and took the last response, STEP is its
index, and the pointer is unknown (R88, R89). -/
def FailureRecorded (s t : State) : Prop :=
  ∃ (before : List Request) (q : TransportRequest) (used : List Response) (rsp : Response),
    t.sent = s.sent ++ before ++ [.transport q] ∧
    (statusStep t.status).toNat = s.stepIdx.toNat + before.length ∧
    t.stepIdx.toNat = s.stepIdx.toNat + before.length + 1 ∧
    s.answers = used ++ rsp :: t.answers ∧
    (reply q rsp = .busError (statusXcode t.status) ∨ (reply q rsp = .noData ∧ statusXcode t.status = 0)) ∧
    t.devPtr = .unknown

theorem toNat_add_one_of_lt {k : BitVec 4} (h : k.toNat + 1 < 16) : (k + 1).toNat = k.toNat + 1 := by
  rw [BitVec.toNat_add]
  exact Nat.mod_eq_of_lt h

/-- A failure after the next request is a failure after the state before it. -/
theorem FailureRecorded.of_next {s u t : State} {q : Request} (hstep : u.stepIdx.toNat = s.stepIdx.toNat + 1)
    (hsent : u.sent = s.sent ++ [q]) (hans : u.answers <:+ s.answers) (h : FailureRecorded u t) : FailureRecorded s t := by
  obtain ⟨before, p, used, rsp, h1, h2, h3, h4, h5, h6⟩ := h
  obtain ⟨taken, htaken⟩ := hans
  refine ⟨q :: before, p, taken ++ used, rsp, by simp [h1, hsent], ?_, ?_, by simp [← htaken, h4], h5, h6⟩
  · rw [h2, hstep, List.length_cons]; omega
  · rw [h3, hstep, List.length_cons]; omega

/-- The failure of the request that stands next. -/
theorem failureRecorded_of_raised {a : MicroOp} {s : State} {q : TransportRequest} {rsp : Response} {rest : List Response}
    {code : OutcomeCode} {x : Byte} (hq : requestOf a s = some (.transport q)) (hout : s.outstanding = none)
    (hans : s.answers = rsp :: rest) (hfit : s.stepIdx.toNat + 1 < 16) (hr : Raises (reply q rsp) code x) :
    FailureRecorded s (keepBits a s (raiseOutcome code x s.stepIdx (answered (.transport q) s))) := by
  have haddr : q.addr = s.addr :=
    (requestOf_addressed a s _ hq).resolve_left fun hk => hr.not_returned [] (reply_begin rsp hk)
  rw [answered_eq_took q hout hans]
  refine ⟨[], q, [], rsp, ?_, ?_, ?_, ?_, ?_, ?_⟩
  · simp [took]
  · simp
  · simpa [took] using toNat_add_one_of_lt hfit
  · simp [took, hans]
  · rcases hr with ⟨hr, -⟩ | ⟨hr, -, hx⟩
    · exact .inl (by simpa using hr)
    · exact .inr ⟨hr, by simpa using hx⟩
  · simpa [took] using pointerAfter_failed haddr hr.not_returned

/-- A run that ends with a failure records it (R88). -/
theorem run_failure (f : Finish) (as : List MicroOp) (s : State) (hout : s.outstanding = none) (hbusy : s.seq = .busy)
    (hstatus : s.status = 0x0000) (hfit : s.stepIdx.toNat + requestCount as < 16) (hidle : (run f as s).seq = .idle)
    (hfail : (run f as s).status ≠ 0x0000) : FailureRecorded s (run f as s) := by
  induction as generalizing s with
  | nil => simp [run_nil, hstatus] at hfail
  | cons a rest ih =>
    have hr := requestOf_isSome a s
    cases hq : requestOf a s with
    | none =>
      have hcount : requestCount (a :: rest) = requestCount rest := by simp [requestCount, ← hr, hq]
      rw [run_internal f a rest s hq] at hidle hfail ⊢
      rw [hcount] at hfit
      have hlater := ih (internalEffect a s) (by simpa using hout) (by simpa using hbusy) (by simpa using hstatus)
        (by simpa using hfit) hidle hfail
      simpa [FailureRecorded] using hlater
    | some q =>
      have hcount : requestCount (a :: rest) = requestCount rest + 1 := by simp [requestCount, ← hr, hq]
      rw [hcount] at hfit
      rw [run_request f a rest s q hq] at hidle hfail ⊢
      rcases issue_ends q s with ⟨-, hi⟩ | ⟨hthere, bytes, hi, -⟩ | ⟨t, rsp, r, code, x, rfl, hans, hr, hi⟩ <;>
        simp only [hi] at hidle hfail ⊢
      · simp [hbusy] at hidle
      · obtain ⟨hout', hstep⟩ := answered_counts_of_answered hthere
        have hstep' : (receive a bytes (answered q s)).stepIdx.toNat = s.stepIdx.toNat + 1 := by
          simpa [hstep] using toNat_add_one_of_lt (k := s.stepIdx) (by omega)
        refine FailureRecorded.of_next (q := q) hstep' (by simpa using answered_sent hout hthere)
          (by simpa using (answered_frame q s (requestOf_addressed a s q hq)).answers)
          (ih _ (by simpa using hout') ?_ ?_ (by omega) hidle hfail)
        · simpa [(answered_quiet q s).seq] using hbusy
        · simpa [(answered_quiet q s).status] using hstatus
      · exact failureRecorded_of_raised hq hout hans (by omega) hr

/-- A command that fails right after acceptance records the failure. -/
theorem exec_failure {i : Instr} {s t : State} (hready : Ready s) (he : exec i s = .next t) (hidle : t.seq = .idle)
    (hfail : t.status ≠ 0x0000) : FailureRecorded s t := by
  obtain rfl := exec_of_ready_eq hready he
  obtain ⟨hbusy, hstep, hout, hstatus, -⟩ := hready
  have hle := requestCount_sequenceOf_le i s.modeCache
  exact run_failure _ _ s hout hbusy hstatus (by rw [hstep]; simp; omega) hidle hfail

/-- Settles O24. -/
theorem statusNamesTheFailedRequest : Obligations.StatusNamesTheFailedRequest := by
  intro i s t hready he hidle hfail
  obtain ⟨before, q, used, rsp, hsent, hstatus, hstep, hans, hrep, hptr⟩ := exec_failure hready he hidle hfail
  have hzero : s.stepIdx.toNat = 0 := by rw [hready.2.1]; rfl
  exact ⟨before, q, used, rsp, hsent, by omega, by omega, hans, hrep, hptr⟩

/-! ### The pointer at completion (R58) -/

/-- The actions that leave the pointer at Temperature. -/
def RestoresPointer (a : MicroOp) : Prop := a = .select .temp ∨ a = .burst .temp

theorem requestOf_restoresPointer {a : MicroOp} (h : RestoresPointer a) (s : State) :
    ∃ q, requestOf a s = some (.transport q) ∧ q.kind ≠ .begin ∧ q.addr = s.addr ∧ q.ptr = Reg.temp.code := by
  rcases h with rfl | rfl
  · exact ⟨_, rfl, by simp, rfl, rfl⟩
  · exact ⟨_, rfl, by simp, rfl, rfl⟩

theorem answered_devPtr {q : TransportRequest} {s : State} {rsp : Response} {rest : List Response} {bytes : List Byte}
    (hans : s.answers = rsp :: rest) (hk : q.kind ≠ .begin) (haddr : q.addr = s.addr)
    (hr : reply q rsp = .returned bytes) : (answered (.transport q) s).devPtr = pointerOf q.ptr := by
  have hpointer : (answered (.transport q) s).devPtr = pointerAfter q rsp { send (.transport q) s with answers := rest } := by
    simp [answered, hans]
  rw [hpointer, pointerAfter_returned hk (by simpa using haddr) hr]

theorem statusWord_ne_zero {x : Byte} {k : BitVec 4} {code : OutcomeCode} (h : code ≠ .ok) : statusWord x k code ≠ 0 := by
  intro hzero
  refine h (OutcomeCode.bits_injective ?_)
  rw [← statusCode_statusWord x k code, hzero]
  rfl

/-- A run whose last action restores the pointer has done so if it ends with OK (R56, R58). -/
theorem run_restores_pointer (f : Finish) (as : List MicroOp) (s : State) (a : MicroOp) (hlast : as.getLast? = some a)
    (ha : RestoresPointer a) (hbusy : s.seq = .busy) (hidle : (run f as s).seq = .idle)
    (hok : (run f as s).status = 0x0000) : (run f as s).devPtr = .known .temp := by
  induction as generalizing s with
  | nil => cases hlast
  | cons b rest ih =>
    cases hq : requestOf b s with
    | none =>
      rw [run_internal f b rest s hq] at hidle hok ⊢
      cases rest with
      | nil =>
        obtain rfl : b = a := by simpa using hlast
        obtain ⟨q, hq', -⟩ := requestOf_restoresPointer ha s
        simp [hq] at hq'
      | cons c rest => exact ih _ (by simpa using hlast) (by simpa using hbusy) hidle hok
    | some q =>
      rw [run_request f b rest s q hq] at hidle hok ⊢
      rcases issue_ends q s with ⟨-, hi⟩ | ⟨-, bytes, hi, hb⟩ | ⟨t, rsp, r, code, x, rfl, hans, hr, hi⟩ <;>
        simp only [hi] at hidle hok ⊢
      · simp [hbusy] at hidle
      · cases rest with
        | nil =>
          obtain rfl : b = a := by simpa using hlast
          obtain ⟨p, hp, hk, haddr, hptr⟩ := requestOf_restoresPointer ha s
          obtain rfl : q = .transport p := by simpa [hq] using hp
          obtain ⟨rsp, r, hans, hrep⟩ := hb p rfl
          simpa [run_nil, hptr] using answered_devPtr hans hk haddr hrep
        | cons c rest =>
          exact ih _ (by simpa using hlast) (by simpa [(answered_quiet q s).seq] using hbusy) hidle hok
      · exact absurd (by simpa using hok) (statusWord_ne_zero (x := x) (k := s.stepIdx) hr.code_ne_ok)

/-- Every command but GETMODE ends with an action that leaves the pointer at Temperature (R58). -/
theorem getLast?_sequenceOf (i : Instr) (m : Mode) (h : i ≠ .getmode) :
    ∃ a, (sequenceOf i m).getLast? = some a ∧ RestoresPointer a := by
  cases i with
  | getmode => exact absurd rfl h
  | readtemp => cases m <;> exact ⟨_, rfl, .inr rfl⟩
  | _ => exact ⟨_, rfl, .inl rfl⟩

theorem requestCount_pos {as : List MicroOp} {a : MicroOp} (hlast : as.getLast? = some a) (ha : RestoresPointer a) :
    0 < requestCount as := by
  refine List.countP_pos_iff.2 ⟨a, List.mem_of_getLast? hlast, ?_⟩
  rcases ha with rfl | rfl <;> rfl

/-- A BUSY block of the invariant has the last action of its command still to do. -/
theorem getLast?_remaining {i : Instr} {s : State} {a : MicroOp} (h : MachineInv s) (hbusy : s.seq = .busy)
    (hd : decode s.cmd = .ok i) (hlast : (sequenceOf i s.modeCache).getLast? = some a) (ha : RestoresPointer a) :
    (remaining (sequenceOf i s.modeCache) s).getLast? = some a := by
  obtain ⟨pre, as, hsplit, hrem, hstep, hstands⟩ := standsIn_position i s (.inr ⟨h, hbusy, hd⟩)
  rw [hrem]
  have hne : as ≠ [] := by
    rintro rfl
    have hout : s.outstanding = none := hstands.resolve_right (by simp)
    obtain ⟨-, -, -, ⟨-, hzero⟩ | ⟨j, q, -, ho, -⟩⟩ := h.busy hbusy
    · have hcount := requestCount_pos hlast ha
      rw [hsplit, List.append_nil, ← hstep, hzero] at hcount
      exact absurd hcount (by decide)
    · simp [hout] at ho
  rw [hsplit, List.getLast?_append_of_ne_nil _ hne] at hlast
  exact hlast

/-- Settles O56: `done` is raised in the turn of a BUSY block alone. -/
theorem completedCommandRestoresThePointer : Obligations.CompletedCommandRestoresThePointer := by
  intro s t i hinv hstep hdone hok hd hne
  rcases step_cases hstep with ⟨a, later, -, rfl⟩ | ⟨hbusy, -, hrun⟩ | ⟨hidle, -, hturn⟩ | ⟨-, -, frame⟩
  · simp at hdone
  · have hidle := (hinv.moving.runLatched hbusy hrun).pulse hdone
    rw [(runLatched_frame hrun).cmd] at hd
    rw [runLatched_of_ok hd] at hrun
    obtain ⟨a, hlast, ha⟩ := getLast?_sequenceOf i (moving s).modeCache hne
    obtain rfl := exec_next_eq hrun
    exact run_restores_pointer _ _ _ a (getLast?_remaining hinv.moving hbusy hd hlast ha) ha hbusy hidle hok
  · rcases blockTurn_idle_cases (s := moving s) hidle hturn with rfl | ⟨w, rest, -, rfl⟩
    · cases hdone
    · cases hdone
  · rw [frame.done] at hdone
    cases hdone

end Sys2Proof.Machine
end

section
/-! Waiting, going on and completing (R33, R52, R111): a block without a response hangs, one whose responses come in parts goes
on as if they had been there at once, and in a weakly fair run every command ends. -/

namespace Sys2Proof.Machine

/-! ### Hanging (R111) -/

/-- A run that stands before its outstanding request, which has no response, changes nothing. -/
theorem run_hangs (f : Finish) {as : List MicroOp} {s : State} {q : Request} (hstands : StandsBefore as s)
    (hout : s.outstanding = some q) (hsilent : ¬ Answered q s) : run f as s = s := by
  rcases hstands with hnone | ⟨a, rest, p, rfl, hq, ho, -⟩
  · simp [hnone] at hout
  · obtain rfl : p = q := by simpa [ho] using hout
    rw [run_request f a rest s p hq]
    rcases issue_ends p s with ⟨-, hi⟩ | ⟨hthere, -⟩ | ⟨t, rsp, r, code, x, rfl, hans, -⟩
    · simp only [hi]
      exact send_of_some p p s ho
    · exact absurd hthere hsilent
    · exact absurd (by simp [Answered, hans]) hsilent

/-- The turn of a BUSY block that waits for a response which is not there. -/
theorem runLatched_hangs {s : State} {q : Request} (h : MachineInv s) (hbusy : s.seq = .busy)
    (hout : s.outstanding = some q) (hsilent : ¬ Answered q s) : runLatched s = .next s := by
  obtain ⟨-, -, -, ⟨hnone, -⟩ | ⟨i, -, hd, -⟩⟩ := h.busy hbusy
  · simp [hnone] at hout
  · obtain ⟨pre, as, -, hrem, -, hstands⟩ := standsIn_position i s (.inr ⟨h, hbusy, hd⟩)
    rw [runLatched_of_ok hd, exec_eq_runCommand, runCommand, hrem, run_hangs _ hstands hout hsilent]

theorem MachineInv.done_of_busy {s : State} (h : MachineInv s) (hbusy : s.seq = .busy) : s.done = false := by
  by_contra hd
  have hidle := h.pulse (by simpa using hd)
  simp [hbusy] at hidle

/-- Settles O13. -/
theorem silenceHangsTheBlock : Obligations.SilenceHangsTheBlock := by
  intro s q h hbusy ha hout hsilent
  have hmoving : moving s = s := by
    rw [moving_of_agenda_nil ha, ← h.done_of_busy hbusy]
  rw [step_busy_turn hbusy (.inl ha), hmoving]
  exact runLatched_hangs h hbusy hout (by cases q <;> simpa [Answered] using hsilent)

/-! ### Completing with enough responses (R33, R52) -/

/-- The number of delays in a sequence. -/
def delayCount (as : List MicroOp) : Nat := as.countP fun a => decide (a = .settle)

theorem delayCount_sequenceOf_le (i : Instr) (m : Mode) : delayCount (sequenceOf i m) ≤ 1 := by
  cases i <;> cases m <;> exact Nat.le_of_ble_eq_true rfl

theorem settle_of_requestOf_delay {a : MicroOp} {s : State} {ms : BitVec 16} (h : requestOf a s = some (.delay ms)) :
    a = .settle := by
  cases a <;> first | rfl | cases h

/-- A request takes one response, and a delay one completion. -/
theorem answered_takes {q : Request} {s : State} (h : Answered q s) :
    s.answers.length ≤ (answered q s).answers.length + 1 ∧
    match q with
    | .transport _ => (answered q s).completions = s.completions
    | .delay _ => (answered q s).completions = s.completions - 1 := by
  cases q with
  | delay ms => simp [answered]
  | transport t =>
    obtain ⟨rsp, rest, hans⟩ := List.exists_cons_of_ne_nil h
    simp [answered, hans]

/-- A run with a response for every request completes. -/
theorem run_completes (f : Finish) (as : List MicroOp) (s : State) (hout : s.outstanding = none)
    (hans : requestCount as ≤ s.answers.length) (hcomp : delayCount as ≤ s.completions) :
    (run f as s).seq = .idle ∧ (run f as s).done = true ∧ (run f as s).outstanding = none := by
  induction as generalizing s with
  | nil => simp [run_nil, hout]
  | cons a rest ih =>
    have hr := requestOf_isSome a s
    have hdelay : delayCount rest ≤ delayCount (a :: rest) := by simp [delayCount, List.countP_cons]
    cases hq : requestOf a s with
    | none =>
      have hcount : requestCount (a :: rest) = requestCount rest := by simp [requestCount, ← hr, hq]
      rw [run_internal f a rest s hq]
      exact ih _ (by simpa using hout) (by simpa [hcount] using hans) (by simpa using hdelay.trans hcomp)
    | some q =>
      have hcount : requestCount (a :: rest) = requestCount rest + 1 := by simp [requestCount, ← hr, hq]
      rw [run_request f a rest s q hq]
      rcases issue_ends q s with ⟨hnot, -⟩ | ⟨hthere, bytes, hi, -⟩ | ⟨t, rsp, r, code, x, rfl, -, -, hi⟩
      · refine absurd ?_ hnot
        cases q with
        | transport t => exact List.length_pos_iff.1 (by omega)
        | delay ms =>
          obtain rfl := settle_of_requestOf_delay hq
          simp [delayCount] at hcomp
          simp [Answered]
          omega
      · simp only [hi]
        obtain ⟨hlen, hcompletions⟩ := answered_takes hthere
        refine ih _ (by simpa using (answered_counts_of_answered hthere).1) ?_ ?_
        · simp only [receive_fields]; omega
        · cases q with
          | transport t => simpa [hcompletions] using hdelay.trans hcomp
          | delay ms =>
            obtain rfl := settle_of_requestOf_delay hq
            simp [delayCount] at hcomp ⊢
            rw [hcompletions]
            omega
      · simp [hi]

theorem exec_completes (i : Instr) {s : State} (hready : Ready s) (hans : 8 ≤ s.answers.length) (hcomp : 1 ≤ s.completions) :
    ∃ t, exec i s = .next t ∧ t.seq = .idle ∧ t.done = true ∧ t.outstanding = none :=
  ⟨_, exec_of_ready hready i, run_completes _ _ s hready.2.2.1 ((requestCount_sequenceOf_le i _).trans hans)
    ((delayCount_sequenceOf_le i _).trans hcomp)⟩

/-! ### Weakly fair runs (R111) -/

/-- How far a BUSY block has come: twice its position, and one more with a request outstanding. -/
def progress (s : State) : Nat := 2 * s.stepIdx.toNat + if s.outstanding.isSome then 1 else 0

theorem progress_lt (s : State) : progress s < 32 := by
  have := s.stepIdx.isLt
  unfold progress
  split <;> omega

theorem progress_congr {s t : State} (hout : t.outstanding = s.outstanding) (hstep : t.stepIdx = s.stepIdx) :
    progress t = progress s := by
  rw [progress, progress, hout, hstep]

/-- A run whose outstanding request has its response stands further on when it waits again. -/
theorem stepIdx_lt_of_answered {f : Finish} {pre as : List MicroOp} {s : State} {q : Request}
    (hk : s.stepIdx.toNat = requestCount pre) (hc : requestCount (pre ++ as) < 16) (hstands : StandsBefore as s)
    (hout : s.outstanding = some q) (hthere : Answered q s) (hbusy : (run f as s).seq = .busy) :
    s.stepIdx.toNat < (run f as s).stepIdx.toNat := by
  rcases hstands with hnone | ⟨a, rest, p, rfl, hq, ho, -⟩
  · simp [hnone] at hout
  obtain rfl : p = q := by simpa [ho] using hout
  have hr : isRequest a = true := by rw [← requestOf_isSome a s, hq]; rfl
  have hcount : requestCount (pre ++ [a]) = requestCount pre + 1 := by simp [requestCount, hr]
  have hle : requestCount (pre ++ [a]) ≤ requestCount (pre ++ a :: rest) := by simp [requestCount, hr]
  rw [run_request f a rest s p hq] at hbusy ⊢
  rcases issue_ends p s with ⟨hnot, -⟩ | ⟨-, bytes, hi, -⟩ | ⟨t, rsp, r, code, x, rfl, -, -, hi⟩
  · exact absurd hthere hnot
  · simp only [hi] at hbusy ⊢
    obtain ⟨hout', hstep⟩ := answered_counts_of_answered hthere
    have hk' : (receive a bytes (answered p s)).stepIdx.toNat = requestCount (pre ++ [a]) := by
      rw [hcount, ← hk]
      simpa [hstep] using toNat_add_one_of_lt (k := s.stepIdx) (by omega)
    have hend := run_cases f (pre ++ [a]) rest (receive a bytes (answered p s)) hk' (by simpa using hc)
      (.inl (by simpa using hout'))
    generalize run f rest (receive a bytes (answered p s)) = t at hend hbusy
    cases hend with
    | waits _ _ _ _ _ _ _ _ _ _ hge _ => omega
    | ends u _ _ _ => simp at hbusy
    | busErr u b v x k _ _ _ _ => simp at hbusy
    | noData u b v k _ _ _ => simp at hbusy
  · simp [hi] at hbusy

/-- A BUSY block whose outstanding request, if there is one, has its response makes progress in its turn, or the command
ends. -/
theorem runLatched_progress {s t : State} (h : MachineInv s) (hbusy : s.seq = .busy) (hrun : runLatched s = .next t)
    (hbusy' : t.seq = .busy) (hthere : ∀ q, s.outstanding = some q → Answered q s) : progress s < progress t := by
  rcases runLatched_cases hrun with ⟨i, hd, he⟩ | ⟨-, rfl⟩
  · have hend := exec_cases i s t (.inr ⟨h, hbusy, hd⟩) he
    cases hend with
    | waits _ pre a rest q hw hq ho hs hl hge quiet =>
      cases hout : s.outstanding with
      | none => simp only [progress, hout, ho]; simp; omega
      | some p =>
        obtain ⟨pre', as, hsplit, hrem, hk, hstands⟩ := standsIn_position i s (.inr ⟨h, hbusy, hd⟩)
        have hc : requestCount (pre' ++ as) < 16 := by
          have := requestCount_sequenceOf_le i s.modeCache
          rw [← hsplit]; omega
        obtain rfl := exec_next_eq he
        rw [runCommand, hrem] at hbusy' ⊢
        have hlt := stepIdx_lt_of_answered hk hc hstands hout (hthere p hout) hbusy'
        simp only [progress, hout]
        simp; omega
    | ends u _ _ _ => simp at hbusy'
    | busErr u b v x k _ _ _ _ => simp at hbusy'
    | noData u b v k _ _ _ => simp at hbusy'
  · simp [raiseIllegal] at hbusy'

/-- The state `t` stands where `s` did, no response having been taken. -/
structure Stalled (s t : State) : Prop where
  outstanding : t.outstanding = s.outstanding
  stepIdx : t.stepIdx = s.stepIdx
  answered : ∀ q, Answered q s → Answered q t

theorem Stalled.refl (s : State) : Stalled s s := ⟨rfl, rfl, fun _ => id⟩

theorem Stalled.trans {s t u : State} (h : Stalled s t) (h' : Stalled t u) : Stalled s u :=
  ⟨h'.outstanding.trans h.outstanding, h'.stepIdx.trans h.stepIdx, fun q hq => h'.answered q (h.answered q hq)⟩

/-- A step that leaves the block BUSY makes progress, or leaves it where it stood; and in its own turn it stays where it
stood only because its request has no response. -/
theorem step_progress {s t : State} (h : MachineInv s) (hstep : step s = .next t) (hbusy : s.seq = .busy)
    (hbusy' : t.seq = .busy) :
    progress s < progress t ∨ (Stalled s t ∧ (BlocksTurn s → ∃ q, s.outstanding = some q ∧ ¬ Answered q s)) := by
  rcases step_cases hstep with ⟨a, later, -, rfl⟩ | ⟨-, -, hrun⟩ | ⟨hidle, -⟩ | ⟨hblock, -, frame⟩
  · simp at hbusy'
  · by_cases hthere : ∀ q, s.outstanding = some q → Answered q s
    · exact .inl (runLatched_progress (s := moving s) h.moving hbusy hrun hbusy' hthere)
    · obtain ⟨q, hout, hsilent⟩ : ∃ q, s.outstanding = some q ∧ ¬ Answered q s := by simpa using hthere
      rw [runLatched_hangs (q := q) h.moving hbusy hout hsilent] at hrun
      obtain rfl := Host.Outcome.next.inj hrun
      exact .inr ⟨⟨rfl, rfl, fun _ => id⟩, fun _ => ⟨q, hout, hsilent⟩⟩
  · simp [hbusy] at hidle
  · exact .inr ⟨⟨frame.outstanding, frame.stepIdx, frame.answered⟩,
      fun hturn => absurd (nextAgent_of_blocksTurn hturn) hblock⟩

/-- The state in which the step `n` of a run is made: the environment has lined up its moves. -/
def lined (r : Nat → State) (env : Nat → List Move) (n : Nat) : State := { r n with agenda := (r n).agenda ++ env n }

theorem run_invariant {r : Nat → State} {env : Nat → List Move} (hrun : IsRun r env) (h : MachineInv (r 0)) (n : Nat) :
    MachineInv (r n) := by
  induction n with
  | zero => exact h
  | succ n ih => exact (ih.of_agenda _).step (hrun n)

section
variable {r : Nat → State} {env : Nat → List Move}

/-- The turns that weak fairness gives the block. -/
theorem WeaklyFair.exists_turn (hfair : WeaklyFair r env) (n : Nat) : ∃ m, n ≤ m ∧ BlocksTurn (lined r env m) := by
  obtain ⟨m, hm, hturn⟩ := hfair.turns n
  refine ⟨m, hm, hturn.imp_right fun hhead => ?_⟩
  exact List.head?_eq_some_iff.1 hhead

/-- Each step of a run that leaves the block BUSY makes progress or leaves it where it stood. -/
theorem run_step_progress (hrun : IsRun r env) (h : MachineInv (r 0)) {n : Nat} (hbusy : (r n).seq = .busy)
    (hbusy' : (r (n + 1)).seq = .busy) :
    progress (r n) < progress (r (n + 1)) ∨
      (Stalled (r n) (r (n + 1)) ∧
        (BlocksTurn (lined r env n) → ∃ q, (r n).outstanding = some q ∧ ¬ Answered q (r n))) := by
  rcases step_progress (s := lined r env n) ((run_invariant hrun h n).of_agenda _) (hrun n) hbusy hbusy' with
    hlt | ⟨hstalled, hturn⟩
  · exact .inl hlt
  · exact .inr ⟨⟨hstalled.outstanding, hstalled.stepIdx, hstalled.answered⟩, hturn⟩

/-- A block that is BUSY for ever comes further again and again: in a turn that the schedule gives it, once its request has
been answered. -/
theorem exists_progress (hrun : IsRun r env) (hfair : WeaklyFair r env) (h : MachineInv (r 0)) {n : Nat}
    (hbusy : ∀ m, n ≤ m → (r m).seq = .busy) : ∃ m, n ≤ m ∧ progress (r m) < progress (r (m + 1)) := by
  by_contra hnone
  have hstep : ∀ m, n ≤ m → Stalled (r m) (r (m + 1)) ∧
      (BlocksTurn (lined r env m) → ∃ q, (r m).outstanding = some q ∧ ¬ Answered q (r m)) := fun m hm =>
    (run_step_progress hrun h (hbusy m hm) (hbusy (m + 1) (by omega))).resolve_left fun hlt => hnone ⟨m, hm, hlt⟩
  have hstalled : ∀ k m, n ≤ k → k ≤ m → Stalled (r k) (r m) := fun k m hk hm =>
    Nat.le_induction (Stalled.refl _) (fun m hm ih => ih.trans (hstep m (hk.trans hm)).1) m hm
  obtain ⟨k, hk, hturn⟩ := hfair.exists_turn n
  obtain ⟨q, hout, -⟩ := (hstep k hk).2 hturn
  obtain ⟨m, hm, hthere⟩ := hfair.answers k q hout
  have hout' : (r m).outstanding = some q := (hstalled k m hk hm).outstanding.trans hout
  obtain ⟨l, hl, hturn⟩ := hfair.exists_turn m
  obtain ⟨p, hp, hsilent⟩ := (hstep l (by omega)).2 hturn
  have hstay := hstalled m l (by omega) hl
  obtain rfl : q = p := by
    rw [hstay.outstanding, hout'] at hp
    exact Option.some.inj hp
  exact hsilent (hstay.answered q (hthere.resolve_right fun hne => hne hout'))

/-- In a weakly fair run no block is BUSY for ever: its position in the command is bounded. -/
theorem exists_idle (hrun : IsRun r env) (hfair : WeaklyFair r env) (h : MachineInv (r 0)) (n : Nat) :
    ∃ m, n ≤ m ∧ (r m).seq = .idle := by
  by_contra hnone
  have hbusy : ∀ m, n ≤ m → (r m).seq = .busy := by
    intro m hm
    cases hseq : (r m).seq with
    | busy => rfl
    | idle => exact absurd ⟨m, hm, hseq⟩ hnone
  have hle : ∀ m, n ≤ m → progress (r m) ≤ progress (r (m + 1)) := by
    intro m hm
    rcases run_step_progress hrun h (hbusy m hm) (hbusy (m + 1) (by omega)) with hlt | ⟨hstalled, -⟩
    · exact hlt.le
    · exact (progress_congr hstalled.outstanding hstalled.stepIdx).ge
  have hmono : ∀ k m, n ≤ k → k ≤ m → progress (r k) ≤ progress (r m) := fun k m hk hm =>
    Nat.le_induction (le_refl _) (fun m hm ih => ih.trans (hle m (hk.trans hm))) m hm
  have hunbounded : ∀ j, ∃ m, n ≤ m ∧ j ≤ progress (r m) := by
    intro j
    induction j with
    | zero => exact ⟨n, le_refl n, Nat.zero_le _⟩
    | succ j ih =>
      obtain ⟨k, hk, hj⟩ := ih
      obtain ⟨m, hm, hlt⟩ := exists_progress hrun hfair h fun m hm => hbusy m (hk.trans hm)
      exact ⟨m + 1, by omega, by have := hmono k m hk hm; omega⟩
  obtain ⟨m, -, hm⟩ := hunbounded 32
  exact absurd (progress_lt (r m)) (by omega)

end

/-- Settles O14. -/
theorem answeredCommandCompletes : Obligations.AnsweredCommandCompletes :=
  ⟨fun i _ hready => exec_completes i hready, fun _ _ n hrun hfair h _ => exists_idle hrun hfair h n⟩

/-! ### Responses that come in parts (R33, R52) -/

/-- `s` with further responses there. -/
def given (more : List Response) (n : Nat) (s : State) : State :=
  { s with answers := s.answers ++ more, completions := s.completions + n }

section
variable (more : List Response) (n : Nat)

theorem given_internalEffect (a : MicroOp) (s : State) :
    internalEffect a (given more n s) = given more n (internalEffect a s) := by cases a <;> rfl

theorem given_receive (a : MicroOp) (bytes : List Byte) (s : State) :
    receive a bytes (given more n s) = given more n (receive a bytes s) := by cases a <;> rfl

theorem requestOf_given (a : MicroOp) (s : State) : requestOf a (given more n s) = requestOf a s := by cases a <;> rfl

theorem given_send (q : Request) (s : State) : send q (given more n s) = given more n (send q s) := by
  cases ho : s.outstanding with
  | none => rw [send_of_none q _ ho, send_of_none q (given more n s) ho]; rfl
  | some p => rw [send_of_some q p _ ho, send_of_some q p (given more n s) ho]

/-- A request whose response is there takes the same response when more are there behind it. -/
theorem issue_given {q : Request} {s : State} {bytes : List Byte} (hthere : Answered q s)
    (hi : issue q s = .returned bytes (answered q s)) :
    issue q (given more n s) = .returned bytes (given more n (answered q s)) := by
  cases q with
  | transport t =>
    obtain ⟨rsp, rest, hans⟩ := List.exists_cons_of_ne_nil hthere
    have hans' : (given more n s).answers = rsp :: (rest ++ more) := by simp [given, hans]
    simp only [issue, hans, hans', settleTransport, given_send] at hi ⊢
    split at hi
    · obtain ⟨rfl, hanswered⟩ := Issued.returned.inj hi
      rw [← hanswered]
      rfl
    · cases hi
    · cases hi
  | delay ms =>
    obtain ⟨c, hc⟩ := Nat.exists_eq_succ_of_ne_zero hthere
    have hc' : (given more n s).completions = c + n + 1 := by simp only [given, hc]; omega
    simp only [issue, hc, hc', given_send] at hi ⊢
    obtain ⟨rfl, hanswered⟩ := Issued.returned.inj hi
    rw [← hanswered]
    rfl

end

/-- A request that is outstanding is not sent again. -/
theorem send_send (q : Request) (s : State) : send q (send q s) = send q s := by
  cases ho : s.outstanding with
  | none => exact send_of_some q q _ (by rw [send_of_none q s ho])
  | some p => rw [send_of_some q p s ho, send_of_some q p s ho]

theorem issue_send (q : Request) (s : State) : issue q (send q s) = issue q s := by
  unfold issue
  simp only [send_send, send_fields]

theorem keepBits_send (a : MicroOp) (q : Request) (s t : State) : keepBits a (send q s) t = keepBits a s t := by
  have hkept : keptByte a (send q s) = keptByte a s := by cases a <;> simp [keptByte]
  simp only [keepBits, hkept, send_fields]

/-- A run that has sent its first request is the run that has it still to send. -/
theorem run_send (f : Finish) (a : MicroOp) (rest : List MicroOp) (s : State) (q : Request) (hq : requestOf a s = some q) :
    run f (a :: rest) (send q s) = run f (a :: rest) s := by
  have hq' : requestOf a (send q s) = some q := by rw [← hq]; cases a <;> simp [requestOf]
  rw [run_request f a rest s q hq, run_request f a rest _ q hq', issue_send]
  cases issue q s with
  | waiting u => rfl
  | returned bytes u => rfl
  | raised u => exact keepBits_send a q s u

/-- A run that waits goes on from its position, with further responses, as the whole run does with the same responses. -/
theorem run_resumes (more : List Response) (n : Nat) (f : Finish) (as : List MicroOp) (s : State) (hbusy : s.seq = .busy)
    (hfit : s.stepIdx.toNat + requestCount as < 16) (hwaits : (run f as s).seq = .busy) :
    ∃ pre a rest, as = pre ++ a :: rest ∧ isRequest a = true ∧ (run f as s).outstanding.isSome = true ∧
      (run f as s).stepIdx.toNat = s.stepIdx.toNat + requestCount pre ∧
      run f as (given more n s) = run f (a :: rest) (given more n (run f as s)) := by
  induction as generalizing s with
  | nil => simp [run_nil] at hwaits
  | cons a rest ih =>
    have hr := requestOf_isSome a s
    cases hq : requestOf a s with
    | none =>
      have hcount : ∀ as, requestCount (a :: as) = requestCount as := fun as => by simp [requestCount, ← hr, hq]
      rw [run_internal f a rest s hq] at hwaits ⊢
      rw [hcount] at hfit
      obtain ⟨pre, b, post, rfl, hb, hout, hstep, hrun⟩ := ih (internalEffect a s) (by simpa using hbusy)
        (by simpa using hfit) hwaits
      refine ⟨a :: pre, b, post, rfl, hb, hout, by simpa [hcount] using hstep, ?_⟩
      rw [run_internal f a _ _ ((requestOf_given more n a s).trans hq), given_internalEffect, hrun]
    | some q =>
      have hcount : ∀ as, requestCount (a :: as) = requestCount as + 1 := fun as => by simp [requestCount, ← hr, hq]
      have hq' : requestOf a (given more n s) = some q := (requestOf_given more n a s).trans hq
      rw [hcount] at hfit
      rcases issue_ends q s with ⟨-, hi⟩ | ⟨hthere, bytes, hi, -⟩ | ⟨t, rsp, r, code, x, rfl, -, -, hi⟩
      · have hrun : run f (a :: rest) s = send q s := by simp only [run_request f a rest s q hq, hi]
        rw [hrun]
        refine ⟨[], a, rest, rfl, by rw [← hr, hq]; rfl, ?_, by simp [requestCount], ?_⟩
        · unfold send; split <;> simp [*]
        · rw [← given_send, run_send f a rest _ q hq']
      · have hrun : run f (a :: rest) s = run f rest (receive a bytes (answered q s)) := by
          simp only [run_request f a rest s q hq, hi]
        have hrun' : run f (a :: rest) (given more n s) = run f rest (given more n (receive a bytes (answered q s))) := by
          simp only [run_request f a rest _ q hq', issue_given more n hthere hi, given_receive]
        have hstep' : (receive a bytes (answered q s)).stepIdx.toNat = s.stepIdx.toNat + 1 := by
          simpa [(answered_counts_of_answered hthere).2] using toNat_add_one_of_lt (k := s.stepIdx) (by omega)
        rw [hrun] at hwaits ⊢
        obtain ⟨pre, b, post, rfl, hb, hout, hstep, hlater⟩ := ih (receive a bytes (answered q s))
          (by simpa [(answered_quiet q s).seq] using hbusy) (by omega) hwaits
        exact ⟨a :: pre, b, post, rfl, hb, hout, by rw [hcount, hstep, hstep']; omega, by rw [hrun', hlater]⟩
      · simp [run_request f a rest s _ hq, hi] at hwaits

/-- A command that waits goes on, with further responses, as it would have with the same responses from the start. -/
theorem exec_given {i : Instr} {s t : State} (more : List Response) (n : Nat) (hbusy : s.seq = .busy)
    (hstands : StandsIn i s) (he : exec i s = .next t) (hwaits : t.seq = .busy) :
    exec i (given more n s) = exec i (given more n t) := by
  obtain ⟨pre, as, hsplit, hrem, hk, -⟩ := standsIn_position i s hstands
  have hle := requestCount_sequenceOf_le i s.modeCache
  have hfit : s.stepIdx.toNat + requestCount as < 16 := by
    have : requestCount (pre ++ as) = requestCount pre + requestCount as := List.countP_append
    rw [hsplit] at hle
    omega
  have ht : run (finishOf i) as s = t := by rw [exec_next_eq he, runCommand, hrem]
  obtain ⟨mid, a, rest, rfl, ha, hout, hstep, hrun⟩ := run_resumes more n (finishOf i) as s hbusy hfit (by rwa [ht])
  rw [ht] at hout hstep hrun
  have hseq : sequenceOf i t.modeCache = (pre ++ mid) ++ a :: rest := by
    rw [sequenceOf_after he, hsplit, List.append_assoc]
  have hrem' : remaining (sequenceOf i t.modeCache) (given more n t) = a :: rest := by
    obtain ⟨q, hq⟩ := Option.isSome_iff_exists.1 hout
    have hposition : t.stepIdx.toNat = requestCount (pre ++ mid) := by
      rw [hstep, hk, requestCount, requestCount, requestCount, List.countP_append]
    simp only [remaining, given, hq, hposition, hseq]
    exact afterRequests_append _ a rest ha
  calc exec i (given more n s)
      = .next (run (finishOf i) (remaining (sequenceOf i s.modeCache) s) (given more n s)) := exec_eq_runCommand i _
    _ = .next (run (finishOf i) (a :: rest) (given more n t)) := by rw [hrem, hrun]
    _ = .next (run (finishOf i) (remaining (sequenceOf i t.modeCache) (given more n t)) (given more n t)) := by rw [hrem']
    _ = exec i (given more n t) := (exec_eq_runCommand i _).symm

/-- Settles O15. -/
theorem responsesMayComeInParts : Obligations.ResponsesMayComeInParts := by
  refine ⟨fun i s t more n hbusy hstands he hwaits => ?_, fun s rsp later ha hl => ?_, fun s later ha hl => ?_⟩
  · refine exec_given more n hbusy ?_ he hwaits
    rcases hstands with hready | ⟨hinv, hd⟩
    · exact hready.standsIn i
    · exact .inr ⟨hinv, hbusy, hd⟩
  · rw [step_of_agenda_cons ha, agentMove, takeAnswer_of_none_late _ { s with done := false, agenda := later } hl]
  · rw [step_of_agenda_cons ha, agentMove, takeCompletion]
    simp [hl]

end Sys2Proof.Machine
end

section
/-! The commands, request by request (R59 to R74): one rule for each action and each kind of response, and from them the whole
next state of each command. -/

namespace Sys2Proof.Machine

/-! ### One rule for each action (R52 to R56, R73, R74) -/

/-- `s` after the request `q` has had its response, as the block and its ports see it: it has been sent and counted, and `rest`
is left of the transport's responses. -/
def counted (q : Request) (rest : List Response) (s : State) : State :=
  { s with outstanding := none, sent := s.sent ++ [q], answers := rest, stepIdx := s.stepIdx + 1 }

section
variable {f : Finish} {as : List MicroOp} {s : State} {rsp : Response} {rest : List Response}

theorem run_returned {a : MicroOp} {q : TransportRequest} {bytes : List Byte} (hout : s.outstanding = none)
    (hans : s.answers = rsp :: rest) (hq : requestOf a s = some (.transport q)) (hr : reply q rsp = .returned bytes) :
    run f (a :: as) s = run f as (receive a bytes (took q rsp rest s)) := by
  simp only [run_request f a as s _ hq, issue_returned hout hans hr]

theorem run_busError {a : MicroOp} {q : TransportRequest} {xs : Byte} (hout : s.outstanding = none)
    (hans : s.answers = rsp :: rest) (hq : requestOf a s = some (.transport q)) (hr : reply q rsp = .busError xs) :
    run f (a :: as) s = keepBits a s (raiseOutcome .busErr xs s.stepIdx (took q rsp rest s)) := by
  simp only [run_request f a as s _ hq, issue_busError hout hans hr]

/-- A request that fails: its outcome is raised, with XCODE its status, and the pointer is unknown (R85, R88). -/
theorem run_bad {a : MicroOp} {q : TransportRequest} (hout : s.outstanding = none) (hans : s.answers = rsp :: rest)
    (hq : requestOf a s = some (.transport q)) (hk : q.kind ≠ .begin) (haddr : q.addr = s.addr) (h : ¬ Good rsp)
    (hkept : keptByte a s = none) :
    run f (a :: as) s = { counted (.transport q) rest s with
      devPtr := .unknown, mem := memoryAfter q rsp s.mem, status := statusWord rsp.xstatus s.stepIdx .busErr,
      seq := .idle, done := true } := by
  rw [run_busError hout hans hq (reply_bad hk h), keepBits_of_none _ _ _ hkept, raiseOutcome, took,
    pointerAfter_bad hk haddr h, counted]

/-- A read that is short: NO_DATA (R86). -/
theorem run_short {a : MicroOp} {q : TransportRequest} (hout : s.outstanding = none) (hans : s.answers = rsp :: rest)
    (hq : requestOf a s = some (.transport q)) (hk : q.kind = .readN) (haddr : q.addr = s.addr) (h : Good rsp)
    (hlen : rsp.bytes.length < q.count.toNat) (hkept : keptByte a s = none) :
    run f (a :: as) s = { counted (.transport q) rest s with
      devPtr := .unknown, status := statusWord 0 s.stepIdx .noData, seq := .idle, done := true } := by
  simp only [run_request f a as s _ hq, issue_noData hout hans (reply_short hk h hlen), keepBits_of_none _ _ _ hkept,
    raiseOutcome, took, pointerAfter_short hk haddr hlen, memoryAfter_of_kind q rsp _ (by simp [hk] : q.kind ≠ .write1),
    counted]

theorem run_begin (hout : s.outstanding = none) (hans : s.answers = rsp :: rest) :
    run f (.begin :: as) s = run f as (counted beginRequest rest s) :=
  run_returned (q := ⟨.begin, 0, 0, 0, 0⟩) hout hans rfl (reply_begin rsp rfl)

theorem run_select_good {r : Reg} (hout : s.outstanding = none) (hans : s.answers = rsp :: rest) (h : Good rsp) :
    run f (.select r :: as) s = run f as { counted (setPtrRequest s.addr r) rest s with devPtr := .known r } := by
  rw [run_returned hout hans rfl (reply_good_of_no_bytes (.inl rfl) h), took, pointerAfter_good (by simp) rfl h (by simp),
    pointerOf_code]
  rfl

theorem run_read_good {r : Reg} {c : Byte} (hout : s.outstanding = none) (hans : s.answers = rsp :: rest)
    (h : GoodByte rsp c) :
    run f (.read r :: as) s = run f as { counted (readRequest s.addr r 1) rest s with
      devPtr := .known r, rx := [c], cfgTmp := c } := by
  obtain ⟨hgood, hhead⟩ := h
  obtain ⟨more, hbytes⟩ := List.head?_eq_some_iff.1 hhead
  have hlen : (1 : BitVec 2).toNat ≤ rsp.bytes.length := by simp [hbytes]
  rw [run_returned hout hans rfl (reply_bytes rfl hgood hlen), took,
    pointerAfter_good (by simp) rfl hgood (fun _ => hlen), pointerOf_code, hbytes]
  rfl

theorem run_burst_good {r : Reg} {b0 b1 : Byte} {more : List Byte} (hout : s.outstanding = none)
    (hans : s.answers = rsp :: rest) (h : Good rsp) (hbytes : rsp.bytes = b0 :: b1 :: more) :
    run f (.burst r :: as) s = run f as { counted (readRequest s.addr r 2) rest s with
      devPtr := .known r, rx := [b0, b1] } := by
  have hlen : (2 : BitVec 2).toNat ≤ rsp.bytes.length := by simp [hbytes]
  rw [run_returned hout hans rfl (reply_bytes rfl h hlen), took, pointerAfter_good (by simp) rfl h (fun _ => hlen),
    pointerOf_code, hbytes]
  rfl

theorem run_write_good {e : ConfigEdit} {kept : Byte} (hout : s.outstanding = none) (hans : s.answers = rsp :: rest)
    (h : Good rsp) :
    run f (.write .config e kept :: as) s = run f as
      { counted (writeRequest s.addr .config (editConfig e s.cfgTmp)) rest s with
        devPtr := .known .config, mem := s.mem.write (configCell s.addr) (editConfig e s.cfgTmp) } := by
  rw [run_returned hout hans rfl (reply_good_of_no_bytes (.inr rfl) h), took, pointerAfter_good (by simp) rfl h (by simp),
    pointerOf_code, memoryAfter_write_good _ rfl rfl h]
  rfl

theorem run_settle_done {n : Nat} (hout : s.outstanding = none) (hc : s.completions = n + 1) :
    run f (.settle :: as) s = run f as { counted settleRequest s.answers s with completions := n } := by
  have hi : issue settleRequest s = .returned [] { counted settleRequest s.answers s with completions := n } := by
    simp only [issue, settleRequest, hc, send_of_none _ s hout]
    rfl
  simp only [run_request f .settle as s _ rfl, hi]
  rfl

theorem run_settle_waits (hout : s.outstanding = none) (hc : s.completions = 0) :
    run f (.settle :: as) s = { s with outstanding := some settleRequest, sent := s.sent ++ [settleRequest] } := by
  have hi : issue settleRequest s = .waiting (send settleRequest s) := by simp only [issue, settleRequest, hc]
  simp only [run_request f .settle as s _ rfl, hi, send_of_none _ s hout]

theorem run_cache (m : Mode) : run f (.cache m :: as) s = run f as { s with modeCache := m } := rfl

theorem run_select_bad {r : Reg} (hout : s.outstanding = none) (hans : s.answers = rsp :: rest) (h : ¬ Good rsp) :
    run f (.select r :: as) s = { counted (setPtrRequest s.addr r) rest s with
      devPtr := .unknown, status := statusWord rsp.xstatus s.stepIdx .busErr, seq := .idle, done := true } :=
  run_bad hout hans rfl (by simp) rfl h rfl

theorem run_read_bad {r : Reg} (hout : s.outstanding = none) (hans : s.answers = rsp :: rest) (h : ¬ Good rsp) :
    run f (.read r :: as) s = { counted (readRequest s.addr r 1) rest s with
      devPtr := .unknown, status := statusWord rsp.xstatus s.stepIdx .busErr, seq := .idle, done := true } :=
  run_bad hout hans rfl (by simp) rfl h rfl

theorem run_read_short {r : Reg} (hout : s.outstanding = none) (hans : s.answers = rsp :: rest) (h : Good rsp)
    (hbytes : rsp.bytes = []) :
    run f (.read r :: as) s = { counted (readRequest s.addr r 1) rest s with
      devPtr := .unknown, status := statusWord 0 s.stepIdx .noData, seq := .idle, done := true } :=
  run_short hout hans rfl rfl rfl h (by simp [hbytes]) rfl

theorem run_write_bad {e : ConfigEdit} (hout : s.outstanding = none) (hans : s.answers = rsp :: rest) (h : ¬ Good rsp) :
    run f (.write .config e 0x00 :: as) s = { counted (writeRequest s.addr .config (editConfig e s.cfgTmp)) rest s with
      devPtr := .unknown, mem := s.mem.forget (configCell s.addr),
      status := statusWord rsp.xstatus s.stepIdx .busErr, seq := .idle, done := true } := by
  rw [run_bad hout hans rfl (by simp) rfl h (keptByte_write_none ..), memoryAfter_write_bad _ rfl rfl h]
  rfl

end

/-! ### The initialisation (R59 to R61) -/

/-- Settles O25. -/
theorem initCompletes : Obligations.InitCompletes := by
  intro s r0 r1 rest hready hans h1
  rw [exec_of_ready hready]
  refine congrArg _ (Eq.trans (run_cache .normal) ?_)
  refine Eq.trans (run_begin hready.2.2.1 hans) ?_
  refine Eq.trans (run_select_good rfl rfl h1) ?_
  simp [run_nil, completeOk, returnValue, finishOf, counted, finished, BitVec.add_assoc]

/-- Settles O26. -/
theorem initResCompletes : Obligations.InitResCompletes := by
  intro s res c r0 r1 r2 r3 r4 rest hready hans h1 h2 h3 h4 v
  rw [exec_of_ready hready]
  refine congrArg _ (Eq.trans (run_cache .normal) ?_)
  refine Eq.trans (run_begin hready.2.2.1 hans) ?_
  refine Eq.trans (run_read_good rfl rfl h1) ?_
  refine Eq.trans (run_write_good rfl rfl h2) ?_
  refine Eq.trans (run_select_good rfl rfl h3) ?_
  refine Eq.trans (run_select_good rfl rfl h4) ?_
  simp [run_nil, completeOk, returnValue, finishOf, counted, finished, BitVec.add_assoc, editConfig, v]

/-- Settles O27. -/
theorem initResModeCompletes : Obligations.InitResModeCompletes := by
  intro s res m c c' r0 r1 r2 r3 r4 r5 r6 r7 rest hready hans h1 h2 h3 h4 h5 h6 h7 v v'
  rw [exec_of_ready hready]
  refine congrArg _ (Eq.trans (run_begin hready.2.2.1 hans) ?_)
  refine Eq.trans (run_read_good rfl rfl h1) ?_
  refine Eq.trans (run_write_good rfl rfl h2) ?_
  refine Eq.trans (run_select_good rfl rfl h3) ?_
  refine Eq.trans (run_cache m) ?_
  refine Eq.trans (run_read_good rfl rfl h4) ?_
  refine Eq.trans (run_write_good rfl rfl h5) ?_
  refine Eq.trans (run_select_good rfl rfl h6) ?_
  refine Eq.trans (run_select_good rfl rfl h7) ?_
  simp [run_nil, completeOk, returnValue, finishOf, counted, finished, BitVec.add_assoc, editConfig, v, v']

/-! ### Raw configuration and resolution (R63 to R67) -/

/-- Settles O29. -/
theorem getcfgCompletes : Obligations.GetcfgCompletes := by
  intro s c r0 r1 rest hready hans h0 h1
  rw [exec_of_ready hready]
  refine congrArg _ (Eq.trans (run_read_good hready.2.2.1 hans h0) ?_)
  refine Eq.trans (run_select_good rfl rfl h1) ?_
  simp [run_nil, completeOk, returnValue, finishOf, counted, finished, BitVec.add_assoc]

/-- Settles O30. -/
theorem getcfgReturnsNothingIfRestoreFails : Obligations.GetcfgReturnsNothingIfRestoreFails := by
  intro s c r0 r1 rest hready hans h0 h1
  rw [exec_of_ready hready]
  refine congrArg _ (Eq.trans (run_read_good hready.2.2.1 hans h0) ?_)
  refine Eq.trans (run_select_bad rfl rfl h1) ?_
  simp [counted, finished, hready.2.1]

/-- Settles O31. -/
theorem setcfgCompletes : Obligations.SetcfgCompletes := by
  intro s data r0 r1 rest hready hans h0 h1
  rw [exec_of_ready hready]
  refine congrArg _ (Eq.trans (run_write_good hready.2.2.1 hans h0) ?_)
  refine Eq.trans (run_select_good rfl rfl h1) ?_
  simp [run_nil, completeOk, returnValue, finishOf, counted, finished, BitVec.add_assoc, editConfig]

/-- Settles O32. -/
theorem setcfgStopsAtAFailedWrite : Obligations.SetcfgStopsAtAFailedWrite := by
  intro s data r0 rest hready hans h0
  rw [exec_of_ready hready]
  refine congrArg _ (Eq.trans (run_write_bad hready.2.2.1 hans h0) ?_)
  simp [counted, finished, hready.2.1, editConfig]

theorem exec_getres {s : State} {c : Byte} {r0 r1 : Response} {rest : List Response} (hready : Ready s)
    (hans : s.answers = r0 :: r1 :: rest) (h0 : GoodByte r0 c) (h1 : Good r1) :
    exec .getres s = .next { finished [readRequest s.addr .config 1, setPtrRequest s.addr .temp] rest s with
      devPtr := .known .temp, cfgTmp := c, rx := [c], result := resolutionResult c } := by
  rw [exec_of_ready hready]
  refine congrArg _ (Eq.trans (run_read_good hready.2.2.1 hans h0) ?_)
  refine Eq.trans (run_select_good rfl rfl h1) ?_
  simp [run_nil, completeOk, returnValue, finishOf, counted, finished, BitVec.add_assoc]

/-- The result of GETRES is one of 9 to 12 (R65). -/
theorem resolutionResult_bounds (r : BitVec 2) : 9 ≤ (r.setWidth 16 + 9 : Word).toNat ∧ (r.setWidth 16 + 9 : Word).toNat ≤ 12 := by
  revert r
  decide

/-- Settles O33. -/
theorem getresCompletes : Obligations.GetresCompletes := fun _ _ _ _ _ hready hans h0 h1 =>
  ⟨exec_getres hready hans h0 h1, resolutionResult_bounds _⟩

/-- Settles O34. -/
theorem setresCompletes : Obligations.SetresCompletes := by
  intro s res c r0 r1 r2 rest hready hans h0 h1 h2 v
  rw [exec_of_ready hready]
  refine congrArg _ (Eq.trans (run_read_good hready.2.2.1 hans h0) ?_)
  refine Eq.trans (run_write_good rfl rfl h1) ?_
  refine Eq.trans (run_select_good rfl rfl h2) ?_
  simp [run_nil, completeOk, returnValue, finishOf, counted, finished, BitVec.add_assoc, editConfig, v]

/-- Settles O35. -/
theorem setresWritesNothingIfReadFails : Obligations.SetresWritesNothingIfReadFails := by
  intro s res r0 rest hready hans
  refine ⟨fun h0 => ?_, fun h0 hbytes => ?_⟩ <;> rw [exec_of_ready hready]
  · refine congrArg _ (Eq.trans (run_read_bad hready.2.2.1 hans h0) ?_)
    simp [counted, finished, hready.2.1]
  · refine congrArg _ (Eq.trans (run_read_short hready.2.2.1 hans h0 hbytes) ?_)
    simp [counted, finished, hready.2.1]

/-! ### Shutdown mode (R68, R69) -/

/-- Settles O38: the sequence of GETMODE is empty. -/
theorem getmodeCompletes : Obligations.GetmodeCompletes := fun _ hready => exec_of_ready hready .getmode

/-- Settles O39. -/
theorem setmodeCompletes : Obligations.SetmodeCompletes := by
  intro s m c r0 r1 r2 rest hready hans h0 h1 h2 v
  rw [exec_of_ready hready]
  refine congrArg _ (Eq.trans (run_cache m) ?_)
  refine Eq.trans (run_read_good hready.2.2.1 hans h0) ?_
  refine Eq.trans (run_write_good rfl rfl h1) ?_
  refine Eq.trans (run_select_good rfl rfl h2) ?_
  simp [run_nil, completeOk, returnValue, finishOf, counted, finished, BitVec.add_assoc, editConfig, v]

/-! ### Temperature (R71 to R74, R83) -/

theorem sequenceOf_readtemp_normal {s : State} (h : s.modeCache = .normal) :
    sequenceOf .readtemp s.modeCache = [.burst .temp] := by rw [h]; rfl

theorem sequenceOf_readtemp_shutdown {s : State} (h : s.modeCache = .shutdown) :
    sequenceOf .readtemp s.modeCache = [.read .config, .write .config .oneShot 0x00, .settle, .burst .temp] := by
  rw [h]; rfl

/-- Settles O43. -/
theorem readtempNormalCompletes : Obligations.ReadtempNormalCompletes := by
  intro s b0 b1 more r0 rest hready hmode hans h0 hbytes t16
  rw [exec_of_ready hready, sequenceOf_readtemp_normal hmode]
  refine congrArg _ (Eq.trans (run_burst_good hready.2.2.1 hans h0 hbytes) ?_)
  simp [run_nil, completeOk, returnValue, returnTemperature, finishOf, counted, finished, assembleWord, t16Of, signExtend12,
    field12, t16]

/-- Settles O44. -/
theorem readtempShutdownCompletes : Obligations.ReadtempShutdownCompletes := by
  intro s c b0 b1 more n r0 r1 r3 rest hready hmode hans hcomp h0 h1 h3 hbytes t16
  rw [exec_of_ready hready, sequenceOf_readtemp_shutdown hmode]
  refine congrArg _ (Eq.trans (run_read_good hready.2.2.1 hans h0) ?_)
  refine Eq.trans (run_write_good rfl rfl h1) ?_
  refine Eq.trans (run_settle_done rfl hcomp) ?_
  refine Eq.trans (run_burst_good rfl rfl h3 hbytes) ?_
  simp [run_nil, completeOk, returnValue, returnTemperature, finishOf, counted, finished, BitVec.add_assoc, editConfig,
    Config.osBit, assembleWord, t16Of, signExtend12, field12, t16]

/-- Settles O45. -/
theorem readtempWaitsForTheDelay : Obligations.ReadtempWaitsForTheDelay := by
  intro s c r0 r1 rest hready hmode hans hcomp h0 h1
  rw [exec_of_ready hready, sequenceOf_readtemp_shutdown hmode]
  refine congrArg _ (Eq.trans (run_read_good hready.2.2.1 hans h0) ?_)
  refine Eq.trans (run_write_good rfl rfl h1) ?_
  refine Eq.trans (run_settle_waits rfl hcomp) ?_
  simp [counted, hready.2.1, editConfig, Config.osBit, settleRequest, Config.settleMs]

/-- Settles O46. -/
theorem oneShotFailureSkipsTheRead : Obligations.OneShotFailureSkipsTheRead := by
  intro s c r0 r1 rest hready hmode
  rw [exec_of_ready hready, sequenceOf_readtemp_shutdown hmode]
  refine ⟨fun hans h0 => ?_, fun hans h0 hbytes => ?_, fun hans h0 h1 => ?_⟩
  · refine congrArg _ (Eq.trans (run_read_bad hready.2.2.1 hans h0) ?_)
    simp [counted, finished, hready.2.1]
  · refine congrArg _ (Eq.trans (run_read_short hready.2.2.1 hans h0 hbytes) ?_)
    simp [counted, finished, hready.2.1]
  · refine congrArg _ (Eq.trans (run_read_good hready.2.2.1 hans h0) ?_)
    refine Eq.trans (run_write_bad rfl rfl h1) ?_
    simp [counted, finished, hready.2.1, editConfig, Config.osBit]

end Sys2Proof.Machine
end

section
/-! The mode cache over a command's run (R7, R59 to R61, R69, R70), the bits of Configuration that an edit keeps (R22), and the
two round trips (R67, R70). -/

namespace Sys2Proof.Machine

/-! ### Where a run has stopped, and what the cache is then -/

/-- The index of the request at which a run has stopped: the one it waits for, or the one that failed (R8, R88). -/
def stopIndex (t : State) : Nat :=
  match t.seq with
  | .busy => t.stepIdx.toNat
  | .idle => (statusStep t.status).toNat

theorem stopIndex_of_busy {t : State} (h : t.seq = .busy) : stopIndex t = t.stepIdx.toNat := by simp [stopIndex, h]

theorem stopIndex_of_idle {t : State} (h : t.seq = .idle) : stopIndex t = (statusStep t.status).toNat := by
  simp [stopIndex, h]

/-- A run that has not ended with OK. -/
def Unfinished (t : State) : Prop := t.seq = .busy ∨ t.status ≠ 0x0000

/-- A run stops no earlier than it starts. -/
theorem le_stopIndex (f : Finish) (as : List MicroOp) (s : State) (hout : s.outstanding = none) (hbusy : s.seq = .busy)
    (hstatus : s.status = 0x0000) (hfit : s.stepIdx.toNat + requestCount as < 16) (h : Unfinished (run f as s)) :
    s.stepIdx.toNat ≤ stopIndex (run f as s) := by
  cases hseq : (run f as s).seq with
  | idle =>
    have hfail := h.resolve_left (by simp [hseq])
    obtain ⟨before, -, -, -, -, hstep, -⟩ := run_failure f as s hout hbusy hstatus hfit hseq hfail
    rw [stopIndex_of_idle hseq, hstep]
    exact Nat.le_add_right _ _
  | busy =>
    obtain ⟨pre, -, -, -, -, -, hstep, -⟩ := run_resumes [] 0 f as s hbusy hfit hseq
    rw [stopIndex_of_busy hseq, hstep]
    exact Nat.le_add_right _ _

theorem answered_modeCache (q : Request) (s : State) : (answered q s).modeCache = s.modeCache := by
  cases q with
  | delay ms => simp [answered]
  | transport t => cases hans : s.answers <;> simp [answered, hans]

/-- A sequence that writes the cache once: the cache is written exactly when the run stops after the requests before it. -/
theorem run_cache_once (f : Finish) (pre post : List MicroOp) (m : Mode) (s : State) (hpre : hasCache pre = false)
    (hpost : hasCache post = false) (hout : s.outstanding = none) (hbusy : s.seq = .busy) (hstatus : s.status = 0x0000)
    (hfit : s.stepIdx.toNat + requestCount (pre ++ .cache m :: post) < 16)
    (h : Unfinished (run f (pre ++ .cache m :: post) s)) :
    (run f (pre ++ .cache m :: post) s).modeCache =
      if stopIndex (run f (pre ++ .cache m :: post) s) < s.stepIdx.toNat + requestCount pre then s.modeCache else m := by
  induction pre generalizing s with
  | nil =>
    rw [List.nil_append, run_cache] at h ⊢
    have hle := le_stopIndex f post { s with modeCache := m } hout hbusy hstatus hfit h
    have hcount : requestCount [] = 0 := rfl
    rw [run_modeCache f post _ hpost, hcount, if_neg (by simpa using hle)]
  | cons a pre ih =>
    obtain ⟨ha, hpre⟩ : isRequest a = true ∧ hasCache pre = false := by simpa [hasCache] using hpre
    obtain ⟨q, hq⟩ := Option.isSome_iff_exists.1 ((requestOf_isSome a s).trans ha)
    have hcount : ∀ as, requestCount (a :: as) = requestCount as + 1 := fun as => by simp [requestCount, ha]
    have hlt : s.stepIdx.toNat < s.stepIdx.toNat + requestCount (a :: pre) := by rw [hcount]; omega
    rw [List.cons_append, hcount] at hfit
    rw [List.cons_append, run_request f a _ s q hq] at h ⊢
    rcases issue_ends q s with ⟨-, hi⟩ | ⟨hthere, bytes, hi, -⟩ | ⟨t, rsp, r, code, x, rfl, -, -, hi⟩ <;>
      simp only [hi] at h ⊢
    · rw [stopIndex_of_busy (by simpa using hbusy)]
      simp [hlt]
    · obtain ⟨hout', hstep⟩ := answered_counts_of_answered hthere
      have hstep' : (receive a bytes (answered q s)).stepIdx.toNat = s.stepIdx.toNat + 1 := by
        simpa [hstep] using toNat_add_one_of_lt (k := s.stepIdx) (by omega)
      have hmode : (receive a bytes (answered q s)).modeCache = s.modeCache := by simp [answered_modeCache]
      have hlater := ih (receive a bytes (answered q s)) hpre (by simpa using hout')
        (by simpa [(answered_quiet q s).seq] using hbusy) (by simpa [(answered_quiet q s).status] using hstatus)
        (by omega) h
      rw [hlater, hmode, hstep', hcount, Nat.add_assoc, Nat.add_comm 1]
    · rw [stopIndex_of_idle (by simp)]
      simp [hlt, answered_modeCache]

/-- A sequence that begins with its only cache write leaves the cache so, however far it comes. -/
theorem run_cache_first (f : Finish) (m : Mode) (as : List MicroOp) (s : State) (h : hasCache as = false) :
    (run f (.cache m :: as) s).modeCache = m := by
  rw [run_cache, run_modeCache f as _ h]

/-- Settles O28. -/
theorem initCommandsWriteTheCache : Obligations.InitCommandsWriteTheCache := by
  refine ⟨fun s t hready he => ?_, fun s t res hready he => ?_, fun s t res m hready he => ?_⟩
  · rw [exec_of_ready_eq hready he]
    exact run_cache_first _ _ _ _ rfl
  · rw [exec_of_ready_eq hready he]
    exact run_cache_first _ _ _ _ rfl
  · obtain rfl := exec_of_ready_eq hready he
    obtain ⟨hbusy, hstep, hout, hstatus, -⟩ := hready
    have hcache := run_cache_once .nothing [.begin, .read .config, .write .config (.resolution res) 0x00, restorePtr]
      [.read .config, .write .config (.mode m) 0x00, restorePtr, .select .temp] m s rfl rfl hout hbusy hstatus
      (by rw [hstep]; exact (by decide : 8 < 16))
    rw [hstep, show (0 : BitVec 4).toNat + requestCount [.begin, .read .config, .write .config (.resolution res) 0x00,
      restorePtr] = 4 from rfl] at hcache
    refine ⟨fun hidle hfail => ?_, fun hwaits => ?_⟩
    · rw [← stopIndex_of_idle hidle, if_congr Nat.lt_succ_iff.symm rfl rfl]
      exact hcache (.inr hfail)
    · rw [← stopIndex_of_busy hwaits, if_congr Nat.lt_succ_iff.symm rfl rfl]
      exact hcache (.inl hwaits)

/-! ### The bits of Configuration (R22) -/

theorem resolutionField_edit (c : Byte) (res : BitVec 2) : resolutionField (editConfig (.resolution res) c) = res := by
  ext k hk
  simp only [resolutionField, editConfig]
  interval_cases k <;> simp

theorem shutdownField_edit (c : Byte) (m : Mode) : shutdownField (editConfig (.mode m) c) = m.bit := by
  ext k hk
  simp only [shutdownField, editConfig]
  interval_cases k
  simp

/-- Bits from 8 on are 0 in every byte. -/
theorem getLsbD_byte_congr {b c : Byte} {k : Nat} (h : k < 8 → b.getLsbD k = c.getLsbD k) : b.getLsbD k = c.getLsbD k := by
  by_cases hk : k < 8
  · exact h hk
  · rw [BitVec.getLsbD_of_ge b k (by omega), BitVec.getLsbD_of_ge c k (by omega)]

theorem resolution_edit_keeps (c : Byte) (res : BitVec 2) {k : Nat} (h5 : k ≠ 5) (h6 : k ≠ 6) :
    (editConfig (.resolution res) c).getLsbD k = c.getLsbD k := by
  refine getLsbD_byte_congr fun hk => ?_
  simp only [editConfig]
  interval_cases k <;> simp_all

theorem mode_edit_keeps (c : Byte) (m : Mode) {k : Nat} (h0 : k ≠ 0) :
    (editConfig (.mode m) c).getLsbD k = c.getLsbD k := by
  refine getLsbD_byte_congr fun hk => ?_
  simp only [editConfig]
  interval_cases k <;> simp_all

theorem oneShot_edit_keeps (c : Byte) {k : Nat} (h7 : k ≠ 7) : (editConfig .oneShot c).getLsbD k = c.getLsbD k := by
  refine getLsbD_byte_congr fun hk => ?_
  simp only [editConfig, Config.osBit]
  interval_cases k <;> simp_all

/-- Settles O36. -/
theorem editsKeepTheOtherBits : Obligations.EditsKeepTheOtherBits := fun c res m _ =>
  ⟨resolutionField_edit c res, resolution_edit_keeps c res, shutdownField_edit c m, mode_edit_keeps c m,
    by simp [editConfig, Config.osBit], oneShot_edit_keeps c⟩

/-! ### The resolution round trip (R67) -/

/-- A SETRES that completes with OK has written the edited byte: its write and its restoring had status 0 (R85). -/
theorem setres_ok {s t : State} {res : BitVec 2} {r0 r1 r2 : Response} {rest : List Response} {c : Byte}
    (hready : Ready s) (hans : s.answers = r0 :: r1 :: r2 :: rest) (h0 : GoodByte r0 c) (he : exec (.setres res) s = .next t)
    (hok : t.status = 0x0000) :
    t.addr = s.addr ∧ t.mem = s.mem.write (configCell s.addr) (editConfig (.resolution res) c) := by
  have h1 : Good r1 := by
    by_contra hbad
    refine statusWord_ne_zero (x := r1.xstatus) (k := s.stepIdx + 1) (code := .busErr) (by decide) ?_
    rw [← hok, exec_of_ready_eq hready he]
    exact (congrArg State.status
      ((run_read_good hready.2.2.1 hans h0).trans (run_write_bad rfl rfl hbad))).symm
  have h2 : Good r2 := by
    by_contra hbad
    refine statusWord_ne_zero (x := r2.xstatus) (k := s.stepIdx + 1 + 1) (code := .busErr) (by decide) ?_
    rw [← hok, exec_of_ready_eq hready he]
    exact (congrArg State.status
      ((run_read_good hready.2.2.1 hans h0).trans (Eq.trans (run_write_good rfl rfl h1) (run_select_bad rfl rfl hbad)))).symm
  have hcompleted := setresCompletes s res c r0 r1 r2 rest hready hans h0 h1 h2
  rw [he] at hcompleted
  obtain rfl := Host.Outcome.next.inj hcompleted
  exact ⟨rfl, rfl⟩

/-- Settles O37: what is written keeps the other bits, and GETRES takes its result from the field. -/
theorem resolutionRoundTrip : Obligations.ResolutionRoundTrip := by
  intro s t u res r0 r1 r2 g0 g1 rest later c v hready hans h0 he _ hok hready' haddr hmem hans' hv hg0 hg1
  obtain ⟨haddr', hmem'⟩ := setres_ok hready hans h0 he hok
  obtain rfl : editConfig (.resolution res) c = v := by
    rw [haddr, haddr', hmem, hmem', memory_read_write_same] at hv
    exact Option.some.inj hv
  refine ⟨fun k h5 h6 => resolution_edit_keeps c res h5 h6, _, exec_getres hready' hans' hg0 hg1, hready'.2.2.2.1, ?_⟩
  simp only [resolutionResult, resolutionField_edit]

/-! ### The mode round trip (R69, R70) -/

theorem response_cases (rsp : Response) : ¬ Good rsp ∨ (Good rsp ∧ rsp.bytes = []) ∨ ∃ c, GoodByte rsp c := by
  by_cases h : Good rsp
  · cases hb : rsp.bytes with
    | nil => exact .inr (.inl ⟨h, rfl⟩)
    | cons c more => exact .inr (.inr ⟨c, h, by simp [hb]⟩)
  · exact .inl h

/-- A run whose next transport request has no response waits. -/
theorem run_waits {f : Finish} {a : MicroOp} {as : List MicroOp} {s : State}
    (hq : ∃ q, requestOf a s = some (.transport q)) (hans : s.answers = []) (hbusy : s.seq = .busy) :
    (run f (a :: as) s).seq = .busy := by
  obtain ⟨q, hq⟩ := hq
  simp [run_request f a as s _ hq, issue, hans, hbusy]

/-- The byte that a failed write of SETMODE leaves has the bit `SD` as it was (R69). -/
theorem shutdownField_kept (c d : Byte) : shutdownField ((c &&& 0x01) ||| (d &&& ~~~ 0x01)) = shutdownField c := by
  ext k hk
  simp only [shutdownField]
  interval_cases k
  simp

/-- Configuration, where it was known, is known with its bit `SD` as it was. -/
def KeepsShutdown (s t : State) : Prop :=
  ∀ c, s.mem.read (configCell s.addr) = some c →
    ∃ d, t.mem.read (configCell s.addr) = some d ∧ shutdownField d = shutdownField c

/-- The write of SETMODE, if it is what failed, keeps `SD` (R69). -/
theorem run_write_keepsShutdown {f : Finish} {m : Mode} {as : List MicroOp} {s : State} (hout : s.outstanding = none)
    (hbusy : s.seq = .busy) (hstatus : s.status = 0x0000) (hfit : s.stepIdx.toNat + (requestCount as + 1) < 16)
    (hidle : (run f (.write .config (.mode m) 0x01 :: as) s).seq = .idle)
    (hfail : (run f (.write .config (.mode m) 0x01 :: as) s).status ≠ 0x0000)
    (hstop : (statusStep (run f (.write .config (.mode m) 0x01 :: as) s).status).toNat ≤ s.stepIdx.toNat) :
    KeepsShutdown s (run f (.write .config (.mode m) 0x01 :: as) s) := by
  cases hans : s.answers with
  | nil => cases hidle.symm.trans (run_waits ⟨_, rfl⟩ hans hbusy)
  | cons rsp rest =>
    by_cases hgood : Good rsp
    · obtain ⟨w, hrun, hout', hbusy', hstatus', hstep'⟩ : ∃ w, run f (.write .config (.mode m) 0x01 :: as) s = run f as w ∧
          w.outstanding = none ∧ w.seq = .busy ∧ w.status = 0x0000 ∧ w.stepIdx = s.stepIdx + 1 :=
        ⟨_, run_write_good hout hans hgood, rfl, hbusy, hstatus, rfl⟩
      rw [hrun] at hidle hfail hstop
      have hnext := toNat_add_one_of_lt (k := s.stepIdx) (by omega)
      have hle := le_stopIndex f as w hout' hbusy' hstatus' (by rw [hstep']; omega) (.inr hfail)
      rw [stopIndex_of_idle hidle, hstep'] at hle
      omega
    · intro c hc
      have hkept : keptByte (.write .config (.mode m) 0x01) s =
          some ((c &&& 0x01) ||| (Config.freeByte s.freeCount &&& ~~~ 0x01)) := by simp [keptByte, hc]
      have hq : requestOf (.write .config (.mode m) 0x01) s =
          some (.transport ⟨.write1, s.addr, Reg.config.code, editConfig (.mode m) s.cfgTmp, 0⟩) := rfl
      refine ⟨(c &&& 0x01) ||| (Config.freeByte s.freeCount &&& ~~~ 0x01), ?_, shutdownField_kept c _⟩
      rw [run_busError hout hans hq (reply_bad (by simp) hgood), keepBits_of_some _ _ _ _ hkept]
      exact memory_read_write_same _ _ _

/-- The read of SETMODE, if it is what failed, changes nothing; else the write decides (R69). -/
theorem run_read_keepsShutdown {f : Finish} {m : Mode} {as : List MicroOp} {s : State} (hout : s.outstanding = none)
    (hbusy : s.seq = .busy) (hstatus : s.status = 0x0000) (hfit : s.stepIdx.toNat + (requestCount as + 2) < 16)
    (hidle : (run f (.read .config :: .write .config (.mode m) 0x01 :: as) s).seq = .idle)
    (hfail : (run f (.read .config :: .write .config (.mode m) 0x01 :: as) s).status ≠ 0x0000)
    (hstop : (statusStep (run f (.read .config :: .write .config (.mode m) 0x01 :: as) s).status).toNat
      ≤ s.stepIdx.toNat + 1) :
    KeepsShutdown s (run f (.read .config :: .write .config (.mode m) 0x01 :: as) s) := by
  cases hans : s.answers with
  | nil => cases hidle.symm.trans (run_waits ⟨_, rfl⟩ hans hbusy)
  | cons rsp rest =>
    rcases response_cases rsp with hbad | ⟨hgood, hbytes⟩ | ⟨c, hgood⟩
    · rw [run_read_bad hout hans hbad]
      exact fun c hc => ⟨c, hc, rfl⟩
    · rw [run_read_short hout hans hgood hbytes]
      exact fun c hc => ⟨c, hc, rfl⟩
    · obtain ⟨w, hrun, hout', hbusy', hstatus', hstep', haddr, hmem⟩ : ∃ w,
          run f (.read .config :: .write .config (.mode m) 0x01 :: as) s = run f (.write .config (.mode m) 0x01 :: as) w ∧
          w.outstanding = none ∧ w.seq = .busy ∧ w.status = 0x0000 ∧ w.stepIdx = s.stepIdx + 1 ∧ w.addr = s.addr ∧
          w.mem = s.mem :=
        ⟨_, run_read_good hout hans hgood, rfl, hbusy, hstatus, rfl, rfl, rfl⟩
      rw [hrun] at hidle hfail hstop ⊢
      have hnext := toNat_add_one_of_lt (k := s.stepIdx) (by omega)
      have hkeeps := run_write_keepsShutdown hout' hbusy' hstatus' (by rw [hstep']; omega) hidle hfail
        (by rw [hstep']; omega)
      rwa [KeepsShutdown, haddr, hmem] at hkeeps

/-- Settles O40. -/
theorem setmodeThenGetmode : Obligations.SetmodeThenGetmode := by
  intro s t u m hready he
  have hmode : t.modeCache = m := by
    rw [exec_of_ready_eq hready he]
    exact run_cache_first _ _ _ _ rfl
  refine ⟨hmode, fun hready' hmode' => ⟨_, getmodeCompletes u hready', ?_⟩, fun c hc hidle hfail hstop =>
    ?_⟩
  · simp only [hmode', hmode]
  · obtain rfl := exec_of_ready_eq hready he
    obtain ⟨hbusy, hstep, hout, hstatus, -⟩ := hready
    exact run_read_keepsShutdown (s := { s with modeCache := m }) hout hbusy hstatus
      (by rw [hstep]; exact (by decide : 3 < 16)) hidle hfail (hstop.trans (Nat.le_add_left _ _)) c hc

end Sys2Proof.Machine
end

section
/-! The temperature decoder (R75 to R80, R82): its forms, its range, and the exact Celsius and Fahrenheit values. -/

namespace Sys2Proof.Machine

/-- Taking the field and sign-extending it is the arithmetic shift (R76, R77). -/
theorem t16Of_eq_sshiftRight (w : Word) : t16Of w = w.sshiftRight 4 := by
  ext k hk
  simp only [t16Of, signExtend12, field12]
  interval_cases k <;> simp [BitVec.getElem_signExtend, BitVec.getElem_sshiftRight, BitVec.msb_eq_getLsbD_last]

theorem signExtend12_eq_or (t12 : BitVec 12) :
    signExtend12 t12 = if t12.getLsbD 11 then t12.setWidth 16 ||| 0xF800 else t12.setWidth 16 := by
  ext k hk
  simp only [signExtend12]
  cases h : t12.getLsbD 11 <;> interval_cases k <;>
    simp_all [BitVec.getElem_signExtend, BitVec.msb_eq_getLsbD_last]

/-- Settles O47. -/
theorem signExtensionForms : Obligations.SignExtensionForms := ⟨t16Of_eq_sshiftRight, signExtend12_eq_or⟩

theorem toInt_t16Of (w : Word) : (t16Of w).toInt = (field12 w).toInt :=
  BitVec.toInt_signExtend_of_le (by decide)

theorem t16Of_bounds (w : Word) : -2048 ≤ (t16Of w).toInt ∧ (t16Of w).toInt ≤ 2047 := by
  rw [toInt_t16Of]
  have hlow := BitVec.le_toInt (field12 w)
  have hhigh := BitVec.toInt_lt (x := field12 w)
  norm_num at hlow hhigh
  omega

theorem getLsbD_assembleWord (b0 b1 : Byte) (k : Nat) :
    (assembleWord b0 b1).getLsbD k = if k < 8 then b1.getLsbD k else b0.getLsbD (k - 8) := BitVec.getLsbD_append

/-- The sign of T16 is bit 7 of the high byte (R82). -/
theorem toInt_t16Of_neg_iff (b0 b1 : Byte) : (t16Of (assembleWord b0 b1)).toInt < 0 ↔ 0x80 ≤ b0.toNat := by
  have hmsb : (field12 (assembleWord b0 b1)).msb = b0.msb := by
    simp only [field12, BitVec.msb_eq_getLsbD_last, BitVec.getLsbD_extractLsb', getLsbD_assembleWord]
    rfl
  calc (t16Of (assembleWord b0 b1)).toInt < 0
      ↔ (field12 (assembleWord b0 b1)).msb = true := by rw [toInt_t16Of, BitVec.msb_eq_toInt, decide_eq_true_iff]
    _ ↔ 0x80 ≤ b0.toNat := by rw [hmsb, BitVec.msb_eq_decide, decide_eq_true_iff]

/-- The low nibble of the low byte does not matter (R82). -/
theorem field12_low_nibble (b0 b1 : Byte) :
    field12 (assembleWord b0 (b1 &&& 0xF0)) = field12 (assembleWord b0 b1) := by
  ext k hk
  simp only [field12, BitVec.getElem_extractLsb', getLsbD_assembleWord]
  interval_cases k <;> simp

/-- Settles O48. -/
theorem decoderRangeAndSign : Obligations.DecoderRangeAndSign := fun b0 b1 =>
  ⟨(t16Of_bounds _).1, (t16Of_bounds _).2, toInt_t16Of_neg_iff b0 b1, congrArg signExtend12 (field12_low_nibble b0 b1)⟩

/-- The quotient rounded toward zero (R78), by the sign of the dividend. -/
theorem tdiv_sixteen (t : Int) : t.tdiv 16 = if 0 ≤ t then t / 16 else -(-t / 16) := by
  split
  · exact Int.tdiv_eq_ediv_of_nonneg ‹_›
  · rw [← Int.tdiv_eq_ediv_of_nonneg (by omega), Int.neg_tdiv, neg_neg]

/-- Settles O49. -/
theorem celsiusReadingsAgreeOnMultiples : Obligations.CelsiusReadingsAgreeOnMultiples := by
  intro t
  have hdiv : celsius .exact t = celsius .trunc t ↔ t.toInt = 16 * t.toInt.tdiv 16 := by
    rw [celsius, celsius, div_eq_iff (by norm_num), mul_comm]
    exact_mod_cast Iff.rfl
  rw [hdiv, tdiv_sixteen]
  split <;> omega

/-! ### Fahrenheit (R80, R82) -/

/-- Celsius of the machine, in sixteenths, for either reading of the division (R78). -/
theorem celsiusSixteenths_eq (d : CDiv) (t : Word) : (celsiusSixteenths d t.toInt : ℚ) = 16 * celsius d t := by
  unfold celsiusSixteenths
  split
  · have hmul : 16 * t.toInt.tdiv 16 = t.toInt := by
      rw [tdiv_sixteen]
      split <;> omega
    cases d with
    | exact => rw [celsius]; ring
    | trunc => rw [celsius]; exact_mod_cast hmul.symm
  · cases d with
    | exact => simp only [celsius]; ring
    | trunc => simp only [celsius]; push_cast; ring

/-- The rational that TEMPF rounds is the Fahrenheit value (R80). -/
theorem fahrenheit_eq_num_div (d : CDiv) (t : Word) :
    fahrenheit d t = (fahrenheitNum (celsiusSixteenths d t.toInt) : ℚ) / (fahrenheitDen : ℚ) := by
  simp only [fahrenheit, fahrenheitNum, fahrenheitDen]
  push_cast
  rw [celsiusSixteenths_eq]
  ring

/-- The range of Celsius in sixteenths (R82). -/
theorem celsiusSixteenths_bounds (d : CDiv) (w : Word) :
    -2048 ≤ celsiusSixteenths d (t16Of w).toInt ∧ celsiusSixteenths d (t16Of w).toInt ≤ 2047 ∧
      (d = .trunc → celsiusSixteenths d (t16Of w).toInt ≤ 2032) := by
  have hbounds := t16Of_bounds w
  unfold celsiusSixteenths
  split
  · exact ⟨by omega, by omega, fun _ => by omega⟩
  · cases d with
    | exact => exact ⟨hbounds.1, hbounds.2, fun h => by cases h⟩
    | trunc =>
      have htdiv := tdiv_sixteen (t16Of w).toInt
      split at htdiv <;> exact ⟨by simp only; omega, by simp only; omega, fun _ => by simp only; omega⟩

theorem fahrenheitNum_ne_zero (c16 : Int) : fahrenheitNum c16 ≠ 0 := by
  unfold fahrenheitNum
  omega

/-- Settles O50: the bounds are those of Celsius in sixteenths, and 2560 is no multiple of 9. -/
theorem fahrenheitOfTheDecoder : Obligations.FahrenheitOfTheDecoder := by
  intro d b0 b1 t
  have hF := fahrenheit_eq_num_div d t
  obtain ⟨hlow, hhigh, htrunc⟩ := celsiusSixteenths_bounds d (assembleWord b0 b1)
  have hlow : (-2048 : ℚ) ≤ (celsiusSixteenths d t.toInt : ℚ) := by exact_mod_cast hlow
  have hhigh : (celsiusSixteenths d t.toInt : ℚ) ≤ 2047 := by exact_mod_cast hhigh
  refine ⟨hF, ?_, ?_, ?_, ?_, fun hd => ?_, ?_⟩
  · simp only [fahrenheit, celsius]; ring
  · simp only [fahrenheit, celsius]; ring
  · rw [hF, fahrenheitNum, fahrenheitDen]; push_cast; linarith
  · rw [hF, fahrenheitNum, fahrenheitDen]; push_cast; linarith
  · have htrunc : (celsiusSixteenths d t.toInt : ℚ) ≤ 2032 := by exact_mod_cast htrunc hd
    rw [hF, fahrenheitNum, fahrenheitDen]; push_cast; linarith
  · rw [hF]
    exact div_ne_zero (by exact_mod_cast fahrenheitNum_ne_zero _) (by norm_num [fahrenheitDen])

end Sys2Proof.Machine
end

section
/-! `toF32` rounds to nearest, ties to even (R81). A finite binary32 value is a multiple of the spacing of a binade, or lies
below the binade in magnitude; the rounded value is the multiple nearest to the exact one. -/

namespace Sys2Proof.Machine

/-! ### Rounding to the nearest integer -/

/-- The integer `n` is nearest to `z`, and even where another is as near. -/
def NearestEven (n : ℕ) (z : ℚ) : Prop := |(n : ℚ) - z| ≤ 1 / 2 ∧ (|(n : ℚ) - z| = 1 / 2 → n % 2 = 0)

theorem NearestEven.le {n : ℕ} {z : ℚ} (h : NearestEven n z) (k : ℤ) : |(n : ℚ) - z| ≤ |(k : ℚ) - z| := by
  by_cases hk : k = n
  · rw [hk, Int.cast_natCast]
  · have hone : (1 : ℚ) ≤ |(k : ℚ) - n| := by
      exact_mod_cast Int.one_le_abs (sub_ne_zero.2 hk)
    have htri : |(k : ℚ) - n| ≤ |(k : ℚ) - z| + |(n : ℚ) - z| := by
      rw [abs_sub_comm (n : ℚ) z]
      exact abs_sub_le _ _ _
    have := h.1
    linarith

/-- A tie makes it even. -/
theorem NearestEven.even {n : ℕ} {z : ℚ} (h : NearestEven n z) {k : ℤ} (hk : k ≠ n)
    (htie : |(n : ℚ) - z| = |(k : ℚ) - z|) : n % 2 = 0 := by
  have hone : (1 : ℚ) ≤ |(k : ℚ) - n| := by
    exact_mod_cast Int.one_le_abs (sub_ne_zero.2 hk)
  have htri : |(k : ℚ) - n| ≤ |(k : ℚ) - z| + |(n : ℚ) - z| := by
    rw [abs_sub_comm (n : ℚ) z]
    exact abs_sub_le _ _ _
  exact h.2 (le_antisymm h.1 (by linarith))

theorem nearestEven_add {ρ : ℚ} (q : ℕ) (h0 : 0 ≤ ρ) (h1 : ρ < 1) :
    NearestEven (if ρ < 1 / 2 then q else if 1 / 2 < ρ then q + 1 else q + q % 2) (q + ρ) := by
  have hdown : |((q : ℕ) : ℚ) - (q + ρ)| = ρ := by rw [sub_add_cancel_left, abs_neg, abs_of_nonneg h0]
  have hup : |((q + 1 : ℕ) : ℚ) - (q + ρ)| = 1 - ρ := by
    push_cast
    rw [add_sub_add_left_eq_sub, abs_of_pos (by linarith)]
  unfold NearestEven
  split
  · rw [hdown]
    exact ⟨by linarith, fun h => by linarith⟩
  · split
    · rw [hup]
      exact ⟨by linarith, fun h => by linarith⟩
    · have hhalf : ρ = 1 / 2 := by linarith
      rcases Nat.mod_two_eq_zero_or_one q with hq | hq <;> rw [hq]
      · rw [add_zero, hdown]
        exact ⟨hhalf.le, fun _ => hq⟩
      · rw [hup]
        exact ⟨by linarith, fun _ => by omega⟩

/-- `roundDiv` is the quotient rounded to the nearest integer, ties to even. -/
theorem roundDiv_nearestEven (a : ℕ) {b : ℕ} (hb : 0 < b) : NearestEven (roundDiv a b) ((a : ℚ) / b) := by
  have hb' : (0 : ℚ) < b := by exact_mod_cast hb
  have hsplit : (a : ℚ) / b = (a / b : ℕ) + ((a % b : ℕ) : ℚ) / b := by
    rw [div_eq_iff hb'.ne', add_mul, div_mul_cancel₀ _ hb'.ne']
    exact_mod_cast (Nat.div_add_mod' a b).symm
  have hlt : ((a % b : ℕ) : ℚ) / b < 1 := by
    rw [div_lt_one hb']
    exact_mod_cast Nat.mod_lt a hb
  have hdown : 2 * (a % b) < b ↔ ((a % b : ℕ) : ℚ) / b < 1 / 2 := by
    rw [div_lt_div_iff₀ hb' two_pos, one_mul, mul_comm]
    exact_mod_cast Iff.rfl
  have hup : b < 2 * (a % b) ↔ 1 / 2 < ((a % b : ℕ) : ℚ) / b := by
    rw [div_lt_div_iff₀ two_pos hb', one_mul, mul_comm]
    exact_mod_cast Iff.rfl
  have hround := nearestEven_add (a / b) (by positivity : (0 : ℚ) ≤ ((a % b : ℕ) : ℚ) / b) hlt
  rw [if_congr hdown.symm rfl (if_congr hup.symm rfl rfl)] at hround
  rwa [hsplit]

/-- `a / b · 2 ^ e` for an exponent of either sign. -/
theorem roundScaled_nearestEven (a : ℕ) {b : ℕ} (hb : 0 < b) (e : ℤ) :
    NearestEven (roundScaled a b e) ((a : ℚ) / b * 2 ^ e) := by
  unfold roundScaled
  split
  · obtain ⟨n, rfl⟩ := Int.eq_ofNat_of_zero_le ‹0 ≤ e›
    have hround := roundDiv_nearestEven (a * 2 ^ n) hb
    rwa [Nat.cast_mul, Nat.cast_pow, Nat.cast_ofNat, mul_div_right_comm] at hround
  · obtain ⟨n, hn⟩ := Int.eq_ofNat_of_zero_le (show 0 ≤ -e by omega)
    have hround := roundDiv_nearestEven a (Nat.mul_pos hb (Nat.two_pow_pos n))
    rw [hn, Int.toNat_natCast]
    rw [show e = -(n : ℤ) by omega, zpow_neg, zpow_natCast, ← div_eq_mul_inv, div_div]
    simpa using hround

/-! ### The binade of a quotient -/

theorem pow2Le_iff (e : ℤ) (a : ℕ) {b : ℕ} (hb : 0 < b) : pow2Le e a b = true ↔ (2 : ℚ) ^ e ≤ (a : ℚ) / b := by
  have hb' : (0 : ℚ) < b := by exact_mod_cast hb
  rw [le_div_iff₀ hb']
  unfold pow2Le
  split
  · obtain ⟨n, rfl⟩ := Int.eq_ofNat_of_zero_le ‹0 ≤ e›
    rw [Int.toNat_natCast, zpow_natCast, mul_comm, decide_eq_true_iff]
    exact_mod_cast Iff.rfl
  · obtain ⟨n, hn⟩ := Int.eq_ofNat_of_zero_le (show 0 ≤ -e by omega)
    rw [hn, Int.toNat_natCast, show e = -(n : ℤ) by omega, zpow_neg, zpow_natCast, decide_eq_true_iff,
      inv_mul_le_iff₀ (by positivity), mul_comm]
    exact_mod_cast Iff.rfl

/-- The quotient lies in its binade. -/
theorem binade_spec {a b : ℕ} (ha : a ≠ 0) (hb : b ≠ 0) :
    (2 : ℚ) ^ binade a b ≤ (a : ℚ) / b ∧ (a : ℚ) / b < 2 ^ (binade a b + 1) := by
  have hb' : (0 : ℚ) < b := by exact_mod_cast Nat.pos_of_ne_zero hb
  have halow : (2 : ℚ) ^ (a.log2 : ℤ) ≤ a := by
    rw [zpow_natCast]; exact_mod_cast Nat.log2_self_le ha
  have hahigh : (a : ℚ) < 2 ^ ((a.log2 : ℤ) + 1) := by
    rw [← Nat.cast_succ, zpow_natCast]; exact_mod_cast Nat.lt_log2_self
  have hblow : (2 : ℚ) ^ (b.log2 : ℤ) ≤ b := by
    rw [zpow_natCast]; exact_mod_cast Nat.log2_self_le hb
  have hbhigh : (b : ℚ) < 2 ^ ((b.log2 : ℤ) + 1) := by
    rw [← Nat.cast_succ, zpow_natCast]; exact_mod_cast Nat.lt_log2_self
  have hupper : (a : ℚ) / b < 2 ^ ((a.log2 : ℤ) - b.log2 + 1) := by
    rw [div_lt_iff₀ hb']
    calc (a : ℚ) < 2 ^ ((a.log2 : ℤ) + 1) := hahigh
      _ = 2 ^ ((a.log2 : ℤ) - b.log2 + 1) * 2 ^ (b.log2 : ℤ) := by rw [← zpow_add₀ two_ne_zero]; ring_nf
      _ ≤ 2 ^ ((a.log2 : ℤ) - b.log2 + 1) * b := by gcongr
  have hlower : (2 : ℚ) ^ ((a.log2 : ℤ) - b.log2 - 1) ≤ (a : ℚ) / b := by
    rw [le_div_iff₀ hb']
    calc (2 : ℚ) ^ ((a.log2 : ℤ) - b.log2 - 1) * b ≤ 2 ^ ((a.log2 : ℤ) - b.log2 - 1) * 2 ^ ((b.log2 : ℤ) + 1) := by gcongr
      _ = 2 ^ (a.log2 : ℤ) := by rw [← zpow_add₀ two_ne_zero]; ring_nf
      _ ≤ a := halow
  unfold binade
  simp only
  split
  · exact ⟨(pow2Le_iff _ a (Nat.pos_of_ne_zero hb)).1 ‹_›, hupper⟩
  · rw [pow2Le_iff _ a (Nat.pos_of_ne_zero hb), not_le] at *
    exact ⟨hlower, by rwa [sub_add_cancel]⟩

/-! ### The values of the bit patterns -/

/-- The magnitude of a pattern from its exponent field and its fraction field (IEEE 754). -/
def fieldValue (e f : ℕ) : ℚ :=
  if e = 0 then (f : ℚ) * 2 ^ (-149 : ℤ) else ((2 ^ 23 + f : ℕ) : ℚ) * 2 ^ ((e : ℤ) - 150)

theorem f32Value_eq (b : BitVec 32) :
    f32Value b = if b.msb then -fieldValue (b.toNat / 2 ^ 23 % 2 ^ 8) (b.toNat % 2 ^ 23)
      else fieldValue (b.toNat / 2 ^ 23 % 2 ^ 8) (b.toNat % 2 ^ 23) := by
  unfold f32Value fieldValue
  simp [BitVec.extractLsb'_toNat, Nat.shiftRight_eq_div_pow]

theorem fieldValue_eq_scaled (e : ℕ) {f : ℕ} (hf : f < 2 ^ 23) :
    ∃ M < 2 ^ 24, ∃ G : ℤ, fieldValue e f = (M : ℕ) * 2 ^ G := by
  unfold fieldValue
  split
  · exact ⟨f, by omega, -149, rfl⟩
  · exact ⟨2 ^ 23 + f, by omega, e - 150, rfl⟩

/-- A value of binary32 lies below a binade in magnitude, or is a multiple of the spacing of the binade. -/
def OnGrid (e : ℤ) (r : ℚ) : Prop := |r| < 2 ^ e ∨ ∃ k : ℤ, r = k * 2 ^ (e - 23)

theorem OnGrid.neg {e : ℤ} {r : ℚ} (h : OnGrid e r) : OnGrid e (-r) := by
  rcases h with hlt | ⟨k, rfl⟩
  · exact .inl (by rwa [abs_neg])
  · exact .inr ⟨-k, by push_cast; ring⟩

theorem onGrid_fieldValue (e : ℤ) (E : ℕ) {f : ℕ} (hf : f < 2 ^ 23) : OnGrid e (fieldValue E f) := by
  obtain ⟨M, hM, G, hval⟩ := fieldValue_eq_scaled E hf
  rw [hval]
  by_cases hfine : e - 23 ≤ G
  · obtain ⟨n, hn⟩ := Int.eq_ofNat_of_zero_le (show 0 ≤ G - (e - 23) by omega)
    refine .inr ⟨M * 2 ^ n, ?_⟩
    rw [show G = n + (e - 23) by omega, zpow_add₀ two_ne_zero, zpow_natCast]
    push_cast
    ring
  · refine .inl ?_
    rw [abs_of_nonneg (by positivity)]
    calc (M : ℚ) * 2 ^ G < 2 ^ 24 * 2 ^ G := by gcongr; exact_mod_cast hM
      _ = 2 ^ (24 + G) := by rw [zpow_add₀ two_ne_zero]; norm_cast
      _ ≤ 2 ^ e := zpow_le_zpow_right₀ one_le_two (by omega)

theorem onGrid_f32Value (e : ℤ) (y : BitVec 32) : OnGrid e (f32Value y) := by
  have hgrid := onGrid_fieldValue e (y.toNat / 2 ^ 23 % 2 ^ 8) (Nat.mod_lt y.toNat (Nat.two_pow_pos 23))
  rw [f32Value_eq]
  split
  · exact hgrid.neg
  · exact hgrid

/-! ### The rounded value is the nearest -/

/-- The multiple nearest to a value of the binade is nearest among all values of binary32, and even in a tie. -/
theorem nearest_of_onGrid {e : ℤ} {X r : ℚ} {m : ℕ} (hX : 2 ^ e ≤ X) (hm : NearestEven m (X * 2 ^ (23 - e)))
    (hr : OnGrid e r) :
    |(m : ℚ) * 2 ^ (e - 23) - X| ≤ |r - X| ∧
      (|(m : ℚ) * 2 ^ (e - 23) - X| = |r - X| → r ≠ (m : ℚ) * 2 ^ (e - 23) → m % 2 = 0) := by
  have hu : (0 : ℚ) < 2 ^ (e - 23) := by positivity
  have hscale (c : ℚ) : |c * 2 ^ (e - 23) - X| = |c - X * 2 ^ (23 - e)| * 2 ^ (e - 23) := by
    have hinv : X = X * 2 ^ (23 - e) * 2 ^ (e - 23) := by
      rw [mul_assoc, ← zpow_add₀ two_ne_zero, show 23 - e + (e - 23) = 0 by omega, zpow_zero, mul_one]
    rw [← abs_of_pos hu, ← abs_mul, sub_mul, abs_of_pos hu, ← hinv]
  rcases hr with hbelow | ⟨k, rfl⟩
  · have hedge : ((2 ^ 23 : ℤ) : ℚ) * 2 ^ (e - 23) = 2 ^ e := by
      rw [show e = 23 + (e - 23) by omega, zpow_add₀ two_ne_zero]
      norm_num
    have hlt : |(m : ℚ) * 2 ^ (e - 23) - X| < |r - X| := by
      calc |(m : ℚ) * 2 ^ (e - 23) - X| ≤ |((2 ^ 23 : ℤ) : ℚ) * 2 ^ (e - 23) - X| := by
            rw [hscale, hscale]
            exact mul_le_mul_of_nonneg_right (hm.le _) hu.le
        _ = X - 2 ^ e := by rw [hedge, abs_sub_comm, abs_of_nonneg (by linarith)]
        _ < X - r := by linarith [le_abs_self r]
        _ ≤ |r - X| := by rw [abs_sub_comm]; exact le_abs_self _
    exact ⟨hlt.le, fun heq => absurd heq hlt.ne⟩
  · rw [hscale, hscale]
    refine ⟨mul_le_mul_of_nonneg_right (hm.le k) hu.le, fun heq hne => ?_⟩
    refine hm.even (k := k) (fun hk => hne (by rw [hk, Int.cast_natCast])) (mul_right_cancel₀ hu.ne' heq)

/-! ### The bits of the rounded value -/

/-- A rounded significand in its binade, or the next power of two. -/
theorem NearestEven.bounds {m : ℕ} {z : ℚ} (h : NearestEven m z) (hlow : 2 ^ 23 ≤ z) (hhigh : z < 2 ^ 24) :
    2 ^ 23 ≤ m ∧ m ≤ 2 ^ 24 := by
  obtain ⟨hneg, hpos⟩ := abs_le.1 h.1
  have hm : ((2 ^ 23 : ℕ) : ℚ) < (m + 1 : ℕ) := by push_cast; linarith
  have hm' : (m : ℚ) < (2 ^ 24 + 1 : ℕ) := by push_cast; linarith
  exact ⟨Nat.lt_succ_iff.1 (by exact_mod_cast hm), Nat.lt_succ_iff.1 (by exact_mod_cast hm')⟩

/-- The carry of a significand rounded up to `2 ^ 24` goes into the exponent field. -/
theorem fieldValue_of_bits {n m : ℕ} (hlow : 2 ^ 23 ≤ m) (hhigh : m ≤ 2 ^ 24) :
    fieldValue ((n * 2 ^ 23 + m) / 2 ^ 23) ((n * 2 ^ 23 + m) % 2 ^ 23) = (m : ℚ) * 2 ^ ((n : ℤ) - 149) := by
  rcases hhigh.lt_or_eq with hlt | rfl
  · have hE : (n * 2 ^ 23 + m) / 2 ^ 23 = n + 1 := by omega
    have hf : 2 ^ 23 + (n * 2 ^ 23 + m) % 2 ^ 23 = m := by omega
    rw [fieldValue, if_neg (by omega), hE, hf]
    congr 2
    push_cast
    ring
  · have hE : (n * 2 ^ 23 + 2 ^ 24) / 2 ^ 23 = n + 2 := by omega
    have hf : (n * 2 ^ 23 + 2 ^ 24) % 2 ^ 23 = 0 := by omega
    rw [fieldValue, if_neg (by omega), hE, hf, add_zero,
      show ((n + 2 : ℕ) : ℤ) - 150 = 1 + ((n : ℤ) - 149) by push_cast; ring, zpow_add₀ two_ne_zero]
    norm_num
    ring

/-- The magnitude bits of a quotient in the range of the normal values: finite, and the value nearest to it. -/
theorem magnitude32_spec {a b : ℕ} (hb : b ≠ 0) (hlow : (2 : ℚ) ^ (-126 : ℤ) ≤ (a : ℚ) / b)
    (hhigh : (a : ℚ) / b < 2 ^ (127 : ℤ)) :
    ∃ (e : ℤ) (m : ℕ), (2 : ℚ) ^ e ≤ (a : ℚ) / b ∧ NearestEven m ((a : ℚ) / b * 2 ^ (23 - e)) ∧ m ≠ 0 ∧
      magnitude32 a b < 0x7F800000 ∧ magnitude32 a b % 2 = m % 2 ∧
      fieldValue (magnitude32 a b / 2 ^ 23) (magnitude32 a b % 2 ^ 23) = (m : ℚ) * 2 ^ (e - 23) := by
  have ha : a ≠ 0 := by
    rintro rfl
    rw [Nat.cast_zero, zero_div] at hlow
    exact absurd hlow (not_le.2 (by positivity))
  obtain ⟨hbelow, habove⟩ := binade_spec ha hb
  have hmin : -126 < binade a b + 1 := (zpow_lt_zpow_iff_right₀ one_lt_two).1 (hlow.trans_lt habove)
  have hmax : binade a b < 127 := (zpow_lt_zpow_iff_right₀ one_lt_two).1 (hbelow.trans_lt hhigh)
  have hround := roundScaled_nearestEven a (Nat.pos_of_ne_zero hb) (23 - binade a b)
  generalize hm : roundScaled a b (23 - binade a b) = m at hround
  have hu : (0 : ℚ) < 2 ^ (23 - binade a b) := by positivity
  have hbounds := hround.bounds
    (by
      calc (2 : ℚ) ^ 23 = 2 ^ binade a b * 2 ^ (23 - binade a b) := by
            rw [← zpow_add₀ two_ne_zero, add_sub_cancel]; norm_cast
        _ ≤ _ := by gcongr)
    (by
      calc _ < 2 ^ (binade a b + 1) * 2 ^ (23 - binade a b) := by gcongr
        _ = (2 : ℚ) ^ 24 := by
            rw [← zpow_add₀ two_ne_zero, show binade a b + 1 + (23 - binade a b) = 24 by ring]; norm_cast)
  obtain ⟨n, hn⟩ := Int.eq_ofNat_of_zero_le (show 0 ≤ binade a b + 126 by omega)
  have hbits : magnitude32 a b = n * 2 ^ 23 + m := by
    simp only [magnitude32, if_neg ha, max_eq_left (show -126 ≤ binade a b by omega), hn, hm, Int.toNat_natCast]
    exact if_pos (by omega)
  rw [hbits]
  refine ⟨binade a b, m, hbelow, hround, by omega, by omega, by omega, ?_⟩
  rw [fieldValue_of_bits hbounds.1 hbounds.2, show (n : ℤ) - 149 = binade a b - 23 by omega]

/-! ### The sign bit -/

theorem f32Finite_iff (b : BitVec 32) : F32Finite b ↔ b.toNat / 2 ^ 23 % 2 ^ 8 ≠ 0xFF := by
  rw [F32Finite, ne_eq, ← BitVec.toNat_inj]
  simp [BitVec.extractLsb'_toNat, Nat.shiftRight_eq_div_pow]

theorem toNat_ofNat_magnitude {n : ℕ} (hn : n < 0x7F800000) : (BitVec.ofNat 32 n).toNat = n := by
  rw [BitVec.toNat_ofNat, Nat.mod_eq_of_lt (by omega)]

theorem toNat_or_sign {n : ℕ} (hn : n < 0x7F800000) : (0x80000000 ||| BitVec.ofNat 32 n : BitVec 32).toNat = 2 ^ 31 + n := by
  rw [BitVec.toNat_or, toNat_ofNat_magnitude hn]
  exact (Nat.two_pow_add_eq_or_of_lt (i := 31) (by omega) 1).symm

/-- A pattern of a sign and magnitude bits of a finite value. -/
theorem signed_pattern {x : BitVec 32} {s n : ℕ} (hx : x.toNat = s * 2 ^ 31 + n) (hn : n < 0x7F800000) (hs : s < 2) :
    F32Finite x ∧ x.getLsbD 0 = decide (n % 2 = 1) ∧
      f32Value x = if s = 1 then -fieldValue (n / 2 ^ 23) (n % 2 ^ 23) else fieldValue (n / 2 ^ 23) (n % 2 ^ 23) := by
  have hfield : x.toNat / 2 ^ 23 % 2 ^ 8 = n / 2 ^ 23 := by omega
  have hfrac : x.toNat % 2 ^ 23 = n % 2 ^ 23 := by omega
  refine ⟨(f32Finite_iff x).2 (by omega), ?_, ?_⟩
  · rw [BitVec.getLsbD, Nat.testBit_zero, hx]
    exact decide_eq_decide.2 (by omega)
  · rw [f32Value_eq, hfield, hfrac]
    refine if_congr ?_ rfl rfl
    rw [BitVec.msb_eq_decide, decide_eq_true_iff, hx]
    omega

/-- `toF32` of a quotient whose magnitude is in the range of the normal values: finite, not 0, nearest, ties to even. -/
theorem toF32_nearest {num : ℤ} {den : ℕ} (hden : den ≠ 0) (hlow : (2 : ℚ) ^ (-126 : ℤ) ≤ (num.natAbs : ℚ) / den)
    (hhigh : (num.natAbs : ℚ) / den < 2 ^ (127 : ℤ)) :
    F32Finite (toF32 num den) ∧ f32Value (toF32 num den) ≠ 0 ∧
    ∀ y : BitVec 32,
      |f32Value (toF32 num den) - num / den| ≤ |f32Value y - num / den| ∧
      (|f32Value (toF32 num den) - num / den| = |f32Value y - num / den| → f32Value y ≠ f32Value (toF32 num den) →
        (toF32 num den).getLsbD 0 = false) := by
  obtain ⟨e, m, hbelow, hround, hm, hfinite, hparity, hval⟩ := magnitude32_spec hden hlow hhigh
  have hne : (m : ℚ) * 2 ^ (e - 23) ≠ 0 := mul_ne_zero (by exact_mod_cast hm) (by positivity)
  have heven : m % 2 = 0 → decide (magnitude32 num.natAbs den % 2 = 1) = false := fun h => by
    rw [hparity, h]; rfl
  by_cases hneg : num < 0
  · obtain ⟨hfin, hbit, hx⟩ := signed_pattern (s := 1) (by rw [toNat_or_sign hfinite, one_mul]) hfinite (by omega)
    have habs : (num : ℚ) / den = -((num.natAbs : ℚ) / den) := by
      rw [Nat.cast_natAbs, abs_of_neg hneg]; push_cast; ring
    rw [if_pos rfl, hval] at hx
    simp only [toF32, if_pos hneg, hx, habs, hbit]
    refine ⟨hfin, neg_ne_zero.2 hne, fun y => ?_⟩
    have hnear := nearest_of_onGrid hbelow hround (onGrid_f32Value e y).neg
    have hflip (r : ℚ) : |r - -((num.natAbs : ℚ) / den)| = |-r - (num.natAbs : ℚ) / den| := by
      rw [← abs_neg]; ring_nf
    rw [hflip, hflip, neg_neg]
    exact ⟨hnear.1, fun htie hdiff => heven (hnear.2 htie fun h => hdiff (by rw [← h, neg_neg]))⟩
  · obtain ⟨hfin, hbit, hx⟩ := signed_pattern (s := 0) (by rw [toNat_ofNat_magnitude hfinite, zero_mul, zero_add]) hfinite
      (by omega)
    have habs : (num : ℚ) / den = (num.natAbs : ℚ) / den := by
      rw [Nat.cast_natAbs, abs_of_nonneg (not_lt.1 hneg)]
    rw [if_neg (by decide), hval] at hx
    simp only [toF32, if_neg hneg, hx, habs, hbit]
    refine ⟨hfin, hne, fun y => ?_⟩
    have hnear := nearest_of_onGrid hbelow hround (onGrid_f32Value e y)
    exact ⟨hnear.1, fun htie hdiff => heven (hnear.2 htie hdiff)⟩

theorem natAbs_fahrenheitNum_bounds {c16 : ℤ} (hmin : -2048 ≤ c16) (hmax : c16 ≤ 2047) :
    1 ≤ (fahrenheitNum c16).natAbs ∧ (fahrenheitNum c16).natAbs ≤ 20983 := by
  have hne := fahrenheitNum_ne_zero c16
  unfold fahrenheitNum at *
  omega

/-- Settles O51: the exact value lies between 1/80 and 20983/80 in magnitude, well within the normal values. -/
theorem tempfIsTheNearestBinary32 : Obligations.TempfIsTheNearestBinary32 := by
  intro d b0 b1 t x
  obtain ⟨hmin, hmax, -⟩ := celsiusSixteenths_bounds d (assembleWord b0 b1)
  obtain ⟨hpos, hle⟩ := natAbs_fahrenheitNum_bounds hmin hmax
  have hlow : (2 : ℚ) ^ (-126 : ℤ) ≤ ((fahrenheitNum (celsiusSixteenths d t.toInt)).natAbs : ℚ) / fahrenheitDen := by
    rw [fahrenheitDen, le_div_iff₀ (by norm_num)]
    exact le_trans (by norm_num) (Nat.one_le_cast.2 hpos)
  have hhigh : ((fahrenheitNum (celsiusSixteenths d t.toInt)).natAbs : ℚ) / fahrenheitDen < 2 ^ (127 : ℤ) := by
    rw [fahrenheitDen, div_lt_iff₀ (by norm_num)]
    exact lt_of_le_of_lt (Nat.cast_le.2 hle) (by norm_num)
  obtain ⟨hfin, hne, hnear⟩ := toF32_nearest (by decide) hlow hhigh
  rw [fahrenheit_eq_num_div]
  exact ⟨hfin, hne, fun y _ => hnear y⟩

end Sys2Proof.Machine
end
